-- ==== Sys2Proof/Word.lean ====
section
/-! DEFINITION. The widths of the hardware (00_scope.md R5): bytes, 16-bit words, 12-bit addresses, 4-bit fields. -/

namespace Sys2Proof

/-- A memory byte or a general register's value (R5 `VREG_WIDTH`). -/
abbrev Byte := BitVec 8

/-- An instruction word, and the width of `pc`, `I` and a return address (R5). -/
abbrev Word := BitVec 16

/-- A memory index (R5 `ADDR_WIDTH`, R50). -/
abbrev Addr := BitVec 12

/-- "a 4-bit value (half a byte), used for register indices and small immediates" (R11). -/
abbrev Nybble := BitVec 4

/-- A register index naming V0..VF; every value is a valid register (R73). -/
abbrev Reg := Nybble

/-- A logical key 0x0..0xF (R255). -/
abbrev Key := Nybble

/-- VF, register 15, is also the flags register (R22). -/
abbrev VF : Reg := 0xF#4

end Sys2Proof
end

