-- ==== Sys2Proof/Syntax.lean ====
section
/-! DEFINITION. The instructions: one constructor for each row of spec/opcode_table.json, and the spec's variants. -/

namespace Sys2Proof

/-- One constructor for each row of spec/opcode_table.json, its operands the fields of the row (R72, R76).
The rows SYS and NOP are two spellings of the spec's one no-op (R78, R84, C7); each keeps the bits of its word, so that
encoding gives the word back (DESIGN CHOICE, log 4). -/
inductive Instr where
  | cls
  | ret
  | sys (nnn : Addr)
  | jp (nnn : Addr)
  | call (nnn : Addr)
  | seImm (x : Reg) (kk : Byte)
  | sneImm (x : Reg) (kk : Byte)
  | seReg (x y : Reg)
  | ldImm (x : Reg) (kk : Byte)
  | addImm (x : Reg) (kk : Byte)
  | ldReg (x y : Reg)
  | or (x y : Reg)
  | and (x y : Reg)
  | xor (x y : Reg)
  | addReg (x y : Reg)
  | sub (x y : Reg)
  | shr (x y : Reg)
  | subn (x y : Reg)
  | shl (x y : Reg)
  | sneReg (x y : Reg)
  | ldI (nnn : Addr)
  | jpV0 (nnn : Addr)
  | rnd (x : Reg) (kk : Byte)
  | drw (x y : Reg) (n : Nybble)
  | skp (x : Reg)
  | sknp (x : Reg)
  | ldXDT (x : Reg)
  | ldK (x : Reg)
  | ldDT (x : Reg)
  | ldST (x : Reg)
  | addI (x : Reg)
  | ldF (x : Reg)
  | ldB (x : Reg)
  | ldMem (x : Reg)
  | ldXMem (x : Reg)
  | nop (word : Word)
  deriving DecidableEq, Repr

/-- The variants of 30_encoding.md R78 to R82 ("decode returns exactly one instruction variant", R84): the 34 operative
ones and the no-op. -/
inductive Variant where
  | clearDisplay | returnFromSubroutine | jump | call
  | skipIfEqualImm | skipIfNotEqualImm | skipIfEqualReg | skipIfNotEqualReg
  | loadInto | add | loadRegister | or | and | xor
  | addRegisters | sub | shiftRight | subBorrow | shiftLeft
  | loadIndex | jumpOffset | random | draw
  | skipIfPressed | skipIfNotPressed
  | loadDelay | waitForKey | setDelay | setSound
  | addIndex | loadSpriteAddress | loadBcd | loadToMemory | loadFromMemory
  | nop
  deriving DecidableEq, Repr

/-- The spec's variant of an instruction. SYS has none of its own: it is the no-op (R84, C7). -/
def Instr.variant : Instr → Variant
  | .cls => .clearDisplay
  | .ret => .returnFromSubroutine
  | .sys _ => .nop
  | .jp _ => .jump
  | .call _ => .call
  | .seImm _ _ => .skipIfEqualImm
  | .sneImm _ _ => .skipIfNotEqualImm
  | .seReg _ _ => .skipIfEqualReg
  | .ldImm _ _ => .loadInto
  | .addImm _ _ => .add
  | .ldReg _ _ => .loadRegister
  | .or _ _ => .or
  | .and _ _ => .and
  | .xor _ _ => .xor
  | .addReg _ _ => .addRegisters
  | .sub _ _ => .sub
  | .shr _ _ => .shiftRight
  | .subn _ _ => .subBorrow
  | .shl _ _ => .shiftLeft
  | .sneReg _ _ => .skipIfNotEqualReg
  | .ldI _ => .loadIndex
  | .jpV0 _ => .jumpOffset
  | .rnd _ _ => .random
  | .drw _ _ _ => .draw
  | .skp _ => .skipIfPressed
  | .sknp _ => .skipIfNotPressed
  | .ldXDT _ => .loadDelay
  | .ldK _ => .waitForKey
  | .ldDT _ => .setDelay
  | .ldST _ => .setSound
  | .addI _ => .addIndex
  | .ldF _ => .loadSpriteAddress
  | .ldB _ => .loadBcd
  | .ldMem _ => .loadToMemory
  | .ldXMem _ => .loadFromMemory
  | .nop _ => .nop

end Sys2Proof
end

