-- ==== Sys2Proof/Decode.lean ====
section
/-! DEFINITION. The fields of a word, the total decoder of 30_encoding.md R83, the encoder from the formats of R76, the
opcode table's mask and match columns, and decoding from bytes. -/

namespace Sys2Proof

/-! ### Fields (R72) -/

/-- `hi`, bits 15..12: the family. -/
def fieldHi (w : Word) : Nybble := w.extractLsb' 12 4
/-- `x`, bits 11..8. -/
def fieldX (w : Word) : Reg := w.extractLsb' 8 4
/-- `y`, bits 7..4. -/
def fieldY (w : Word) : Reg := w.extractLsb' 4 4
/-- `n`, bits 3..0. -/
def fieldN (w : Word) : Nybble := w.extractLsb' 0 4
/-- `kk`, bits 7..0. -/
def fieldKK (w : Word) : Byte := w.extractLsb' 0 8
/-- `nnn`, bits 11..0. -/
def fieldNNN (w : Word) : Addr := w.extractLsb' 0 12

/-! ### The decoder (R77 to R85) -/

/-- Family 0x0 matches the whole word (R78). -/
def decodeFamily0 (w : Word) : Instr :=
  if w = 0x00E0#16 then .cls else if w = 0x00EE#16 then .ret else .sys (fieldNNN w)

/-- Family 0x8 is keyed by the low nybble (R81). -/
def decodeFamily8 (w : Word) : Instr :=
  match (fieldN w).toNat with
  | 0x0 => .ldReg (fieldX w) (fieldY w)
  | 0x1 => .or (fieldX w) (fieldY w)
  | 0x2 => .and (fieldX w) (fieldY w)
  | 0x3 => .xor (fieldX w) (fieldY w)
  | 0x4 => .addReg (fieldX w) (fieldY w)
  | 0x5 => .sub (fieldX w) (fieldY w)
  | 0x6 => .shr (fieldX w) (fieldY w)
  | 0x7 => .subn (fieldX w) (fieldY w)
  | 0xE => .shl (fieldX w) (fieldY w)
  | _ => .nop w

/-- Family 0xE is keyed by the low byte (R82). -/
def decodeFamilyE (w : Word) : Instr :=
  match (fieldKK w).toNat with
  | 0x9E => .skp (fieldX w)
  | 0xA1 => .sknp (fieldX w)
  | _ => .nop w

/-- Family 0xF is keyed by the low byte (R82). -/
def decodeFamilyF (w : Word) : Instr :=
  match (fieldKK w).toNat with
  | 0x07 => .ldXDT (fieldX w)
  | 0x0A => .ldK (fieldX w)
  | 0x15 => .ldDT (fieldX w)
  | 0x18 => .ldST (fieldX w)
  | 0x1E => .addI (fieldX w)
  | 0x29 => .ldF (fieldX w)
  | 0x33 => .ldB (fieldX w)
  | 0x55 => .ldMem (fieldX w)
  | 0x65 => .ldXMem (fieldX w)
  | _ => .nop w

/-- `Decode(w)` of R83: total on all 65536 words, never an error (R84, R85). The last alternative is family 0xF. -/
def decode (w : Word) : Instr :=
  match (fieldHi w).toNat with
  | 0x0 => decodeFamily0 w
  | 0x1 => .jp (fieldNNN w)
  | 0x2 => .call (fieldNNN w)
  | 0x3 => .seImm (fieldX w) (fieldKK w)
  | 0x4 => .sneImm (fieldX w) (fieldKK w)
  | 0x5 => if fieldN w = 0 then .seReg (fieldX w) (fieldY w) else .nop w
  | 0x6 => .ldImm (fieldX w) (fieldKK w)
  | 0x7 => .addImm (fieldX w) (fieldKK w)
  | 0x8 => decodeFamily8 w
  | 0x9 => if fieldN w = 0 then .sneReg (fieldX w) (fieldY w) else .nop w
  | 0xA => .ldI (fieldNNN w)
  | 0xB => .jpV0 (fieldNNN w)
  | 0xC => .rnd (fieldX w) (fieldKK w)
  | 0xD => .drw (fieldX w) (fieldY w) (fieldN w)
  | 0xE => decodeFamilyE w
  | _ => decodeFamilyF w

/-! ### The encoder: the formats of R76 -/

/-- Format A: `hi`, `nnn`. -/
def formatA (hi : Nybble) (nnn : Addr) : Word := hi ++ nnn
/-- Formats XKK and X: `hi`, `x`, `kk`. -/
def formatXKK (hi : Nybble) (x : Reg) (kk : Byte) : Word := hi ++ x ++ kk
/-- Formats XY and XYN: `hi`, `x`, `y`, `n`. -/
def formatXYN (hi : Nybble) (x y : Reg) (n : Nybble) : Word := hi ++ x ++ y ++ n

/-- The word of an instruction, from its row of spec/opcode_table.json. -/
def encode : Instr → Word
  | .cls => 0x00E0
  | .ret => 0x00EE
  | .sys nnn => formatA 0x0 nnn
  | .jp nnn => formatA 0x1 nnn
  | .call nnn => formatA 0x2 nnn
  | .seImm x kk => formatXKK 0x3 x kk
  | .sneImm x kk => formatXKK 0x4 x kk
  | .seReg x y => formatXYN 0x5 x y 0x0
  | .ldImm x kk => formatXKK 0x6 x kk
  | .addImm x kk => formatXKK 0x7 x kk
  | .ldReg x y => formatXYN 0x8 x y 0x0
  | .or x y => formatXYN 0x8 x y 0x1
  | .and x y => formatXYN 0x8 x y 0x2
  | .xor x y => formatXYN 0x8 x y 0x3
  | .addReg x y => formatXYN 0x8 x y 0x4
  | .sub x y => formatXYN 0x8 x y 0x5
  | .shr x y => formatXYN 0x8 x y 0x6
  | .subn x y => formatXYN 0x8 x y 0x7
  | .shl x y => formatXYN 0x8 x y 0xE
  | .sneReg x y => formatXYN 0x9 x y 0x0
  | .ldI nnn => formatA 0xA nnn
  | .jpV0 nnn => formatA 0xB nnn
  | .rnd x kk => formatXKK 0xC x kk
  | .drw x y n => formatXYN 0xD x y n
  | .skp x => formatXKK 0xE x 0x9E
  | .sknp x => formatXKK 0xE x 0xA1
  | .ldXDT x => formatXKK 0xF x 0x07
  | .ldK x => formatXKK 0xF x 0x0A
  | .ldDT x => formatXKK 0xF x 0x15
  | .ldST x => formatXKK 0xF x 0x18
  | .addI x => formatXKK 0xF x 0x1E
  | .ldF x => formatXKK 0xF x 0x29
  | .ldB x => formatXKK 0xF x 0x33
  | .ldMem x => formatXKK 0xF x 0x55
  | .ldXMem x => formatXKK 0xF x 0x65
  | .nop w => w

/-! ### The opcode table's rows, as data -/

/-- A row of spec/opcode_table.json: a word matches it when its bits under `mask` are `value`. -/
structure OpcodeRow where
  variant : Variant
  value : Word
  mask : Word
  deriving DecidableEq, Repr

/-- The word is in the row. -/
def rowMatches (row : OpcodeRow) (w : Word) : Bool := w &&& row.mask == row.value

/-- The 34 operative rows of spec/opcode_table.json (all but SYS and NOP, whose variant is the no-op), in its order. -/
def opcodeRows : List OpcodeRow :=
  [ ⟨.clearDisplay, 0x00E0, 0xFFFF⟩, ⟨.returnFromSubroutine, 0x00EE, 0xFFFF⟩,
    ⟨.jump, 0x1000, 0xF000⟩, ⟨.call, 0x2000, 0xF000⟩,
    ⟨.skipIfEqualImm, 0x3000, 0xF000⟩, ⟨.skipIfNotEqualImm, 0x4000, 0xF000⟩, ⟨.skipIfEqualReg, 0x5000, 0xF00F⟩,
    ⟨.loadInto, 0x6000, 0xF000⟩, ⟨.add, 0x7000, 0xF000⟩,
    ⟨.loadRegister, 0x8000, 0xF00F⟩, ⟨.or, 0x8001, 0xF00F⟩, ⟨.and, 0x8002, 0xF00F⟩, ⟨.xor, 0x8003, 0xF00F⟩,
    ⟨.addRegisters, 0x8004, 0xF00F⟩, ⟨.sub, 0x8005, 0xF00F⟩, ⟨.shiftRight, 0x8006, 0xF00F⟩ ] ++
  [ ⟨.subBorrow, 0x8007, 0xF00F⟩, ⟨.shiftLeft, 0x800E, 0xF00F⟩, ⟨.skipIfNotEqualReg, 0x9000, 0xF00F⟩,
    ⟨.loadIndex, 0xA000, 0xF000⟩, ⟨.jumpOffset, 0xB000, 0xF000⟩, ⟨.random, 0xC000, 0xF000⟩,
    ⟨.draw, 0xD000, 0xF000⟩,
    ⟨.skipIfPressed, 0xE09E, 0xF0FF⟩, ⟨.skipIfNotPressed, 0xE0A1, 0xF0FF⟩,
    ⟨.loadDelay, 0xF007, 0xF0FF⟩, ⟨.waitForKey, 0xF00A, 0xF0FF⟩, ⟨.setDelay, 0xF015, 0xF0FF⟩,
    ⟨.setSound, 0xF018, 0xF0FF⟩, ⟨.addIndex, 0xF01E, 0xF0FF⟩, ⟨.loadSpriteAddress, 0xF029, 0xF0FF⟩,
    ⟨.loadBcd, 0xF033, 0xF0FF⟩, ⟨.loadToMemory, 0xF055, 0xF0FF⟩, ⟨.loadFromMemory, 0xF065, 0xF0FF⟩ ]

/-- "Catch-all: every word that matches no other row" (the table's row NOP; R85). -/
def decodeMiss (w : Word) : Bool := !opcodeRows.any (rowMatches · w)

/-! ### Bytes -/

/-- Why bytes give no instruction: fewer than the two bytes of a word (R72, R86). No word is ever refused (R85). -/
inductive DecodeError where
  | fewerThanTwoBytes
  deriving DecidableEq, Repr

/-- `hi ++ lo`: the byte at the lower address is the word's high byte (R54, R71). -/
def wordOfBytes (hi lo : Byte) : Word := hi ++ lo
/-- The word's high byte, bits 15..8. -/
def highByte (w : Word) : Byte := w.extractLsb' 8 8
/-- The word's low byte, bits 7..0. -/
def lowByte (w : Word) : Byte := w.extractLsb' 0 8

/-- Decodes the first instruction of a byte sequence and gives the bytes after it (DESIGN CHOICE of form, log 14). -/
def decodeBytes : List Byte → Except DecodeError (Instr × List Byte)
  | hi :: lo :: rest => .ok (decode (wordOfBytes hi lo), rest)
  | _ => .error .fewerThanTwoBytes

/-- The bytes of an instruction, in the order memory holds them. -/
def encodeBytes (i : Instr) : List Byte := [highByte (encode i), lowByte (encode i)]

/-- The word numbered as spec/opcode_table.json numbers it: bit 0 the least significant; bits at `nbits` and above are 0. -/
def tableWord (nbits w : Nat) : Word := BitVec.ofNat 16 (w % 2 ^ nbits)

/-- The instruction the decoder reads from the table's word, laid out big-endian. -/
def decodeTableWord (nbits w : Nat) : Option Instr :=
  match decodeBytes [highByte (tableWord nbits w), lowByte (tableWord nbits w)] with
  | .ok (i, _) => some i
  | .error _ => none

end Sys2Proof
end

