-- ==== Sys2Proof/Config.lean ====
section
/-! DEFINITION. The parameters of 00_scope.md R5 that a claim names, and the two values the spec leaves open. -/

namespace Sys2Proof.Config

/-- `MEM_SIZE`: 4096 bytes, addresses 0x000..0xFFF (R5, R50). -/
def memSize : Nat := 4096

/-- `PROG_BASE`: the ROM load address and the reset value of `pc` (R5, R39). -/
def progBase : Nat := 0x200

/-- `STACK_DEPTH` = 16 (R5, R28, the spec's decision D12; UNVERIFIED, log 7). -/
def stackDepth : Nat := 16

/-- `FB_WIDTH` (R5). -/
def fbWidth : Nat := 64

/-- `FB_HEIGHT` (R5). -/
def fbHeight : Nat := 32

/-- `TIMER_HZ`, the nominal tick rate; no rule depends on it (R5, R221). -/
def timerHz : Nat := 60

/-- `INSN_RATE`: OPEN, read by no rule (R5, D3, U7; DESIGN CHOICE of form, log 16). -/
opaque insnRate : Nat

/-- The random source: the `n`-th byte that RND draws. A free value under no law (R254, D22, U6; DESIGN CHOICE
of form, log 2): nothing in Lean can evaluate it. -/
opaque randomByte : Nat → Byte

end Sys2Proof.Config
end

