-- ==== Sys2Proof/Machine/State.lean ====
section
/-! DEFINITION. The machine's state (10_state.md R20), what stops a step, and the state after reset (R39). -/

namespace Sys2Proof.Machine

/-- The byte memory, as (address, byte) pairs in one canonical form (`Memory.wf`, Machine/Ops.lean). -/
abbrev Memory := List Host.Cell

/-- The 64×32 one-bit cells: 32 rows of 64, cell (row, col) being bit `col` of row `row` (R29; DESIGN CHOICE of form,
log 13). -/
abbrev Framebuffer := Vector (BitVec 64) 32

/-- Every cell off. -/
def Framebuffer.allOff : Framebuffer := Vector.replicate 32 0#64

/-- "either 'clear' or 'present this framebuffer snapshot'" (R11, R35, R194). -/
inductive DisplayCommand where
  | clear
  | present (snapshot : Framebuffer)
  deriving DecidableEq, Repr

/-- The key-wait state machine, `Idle | Waiting{target_register}` (R30). -/
inductive Wait where
  | idle
  | waiting (target : Reg)
  deriving DecidableEq, Repr

/-- The Input State (R31): the keys down, bit k for key k, and the last-released slot. -/
structure Keys where
  pressed : BitVec 16
  lastReleased : Option Key
  deriving DecidableEq, Repr

/-- The two exceptions of the block (R240 to R242). -/
inductive FaultCause where
  | stackUnderflow
  | stackOverflow
  deriving DecidableEq, Repr

/-- The fault diagnostic: cause, pc and word of the faulting instruction (R34, R244). -/
structure FaultRecord where
  cause : FaultCause
  pc : Word
  word : Word
  deriving DecidableEq, Repr

/-- The events that reach the block from outside (R10). -/
inductive HostEvent where
  | tick
  | press (k : Key)
  | release (k : Key)
  | reset (rom : List Byte)
  deriving DecidableEq, Repr

/-- Who moves next: the engine, or the host with one event (R10, D21; DESIGN CHOICE of form, log 1). -/
inductive Turn where
  | engine
  | host (e : HostEvent)
  deriving DecidableEq, Repr

/-- The whole state of the block (R20), in the order of R20's table, and the model's own three fields. -/
structure State where
  /-- V0..VF (R21). -/
  v : Vector Byte 16
  /-- The index register I (R26). -/
  i : Word
  /-- The program counter, 16 bits, not masked (R24). -/
  pc : Word
  /-- The delay timer (R27). -/
  dt : Byte
  /-- The sound timer (R27). -/
  st : Byte
  /-- The return addresses, oldest first (R28). -/
  stack : List Word
  /-- The 4096 bytes of memory (R50). -/
  mem : Memory
  /-- The framebuffer (R29). -/
  fb : Framebuffer
  /-- The key-wait state (R30). -/
  wait : Wait
  /-- The Input State (R31). -/
  keys : Keys
  /-- The fault record (R34). -/
  fault : Option FaultRecord
  /-- The Display Commands emitted so far, in production order (R35). -/
  out : List DisplayCommand
  /-- The model's own: how many random bytes have been drawn (R254; DESIGN CHOICE, log 2). -/
  draws : Nat
  /-- The model's own: the turns to come; none means engine steps only (R10; DESIGN CHOICE, log 1). The list is finite, so
host events, Ticks too, come to an end in every run: any number of them and any order, but no endless run that always
sees another Tick (R221, D21; DESIGN CHOICE, log 17). -/
  schedule : List Turn
  /-- The model's own: a ROM image has been loaded since process start, so the engine runs (R272, R274; DEDUCED, log 11). -/
  launched : Bool
  deriving DecidableEq, Repr

/-- Why a step gives no next state. -/
inductive Fault where
  /-- Raised by `step` on an engine turn of a faulted state: "from the faulted state the engine has no step" (R243).
  Safe: no claim about a next state follows. -/
  | faulted (record : FaultRecord)
  deriving DecidableEq, Repr

/-- Why a step has no meaning. -/
inductive Refusal where
  /-- An instruction without a meaning; no arm of `exec` answers it. Safe. -/
  | notModelled (mnemonic : String)
  /-- Raised by `step` on an engine turn before the first `Reset(rom)`: no ROM has been loaded, and "a model has no run for
  such a launch" (R272, R274, U20; log 11). Safe: no claim about a next state follows. -/
  | notLaunched
  deriving DecidableEq, Repr

/-- The state at process start: every component at R39's value, no key down, no byte of memory listed (R39, R270;
UNVERIFIED for the spec's own decision D11, log 5), and no ROM loaded, so the engine does not run until a `Reset(rom)`
(R272, R274; log 11). The model's own `draws` and `schedule` start at 0 and empty (DESIGN CHOICE, log 1 and log 2). -/
def State.reset : State where
  v := Vector.replicate 16 0x00#8
  i := 0x0000#16
  pc := 0x200#16
  dt := 0x00#8
  st := 0x00#8
  stack := []
  mem := []
  fb := Framebuffer.allOff
  wait := .idle
  keys := { pressed := 0#16, lastReleased := none }
  fault := none
  out := []
  draws := 0
  schedule := []
  launched := false

end Sys2Proof.Machine
end

