-- ==== Sys2Proof/Machine/Ops.lean ====
section
/-! DEFINITION. The named operations over memory, registers, stack, display, keys and faults (00_scope.md R7), fetch
(R71), fault entry (R243) and the way out of a fault, the reset event (R270). -/

namespace Sys2Proof.Machine

/-! ### Memory (R50 to R57) -/

/-- `A12(v) = v AND 0xFFF`, the mask on every memory index (R7, R51). -/
def A12 (v : Nat) : Addr := BitVec.ofNat 12 v

/-- What an address that is not listed reads as: 0x00, the reset content of all memory outside the ROM image
(R39, R56; UNVERIFIED for the spec's own decisions D10 and D11, log 6). -/
def Memory.unlisted (_address : Nat) : Byte := 0x00#8

/-- The byte at a numbered address. -/
def Memory.readAt : Memory → Nat → Byte
  | [], a => Memory.unlisted a
  | (k, b) :: m, a => if k = a then b else Memory.readAt m a

/-- Lists an address with a byte, keeping the addresses rising. -/
def Memory.insertAt : Memory → Nat → Byte → Memory
  | [], a, v => [(a, v)]
  | (k, b) :: m, a, v =>
    if a < k then (a, v) :: (k, b) :: m
    else if a = k then (a, v) :: m
    else (k, b) :: Memory.insertAt m a v

/-- Takes an address out of the list. -/
def Memory.eraseAt : Memory → Nat → Memory
  | [], _ => []
  | (k, b) :: m, a => if k = a then m else (k, b) :: Memory.eraseAt m a

/-- `MemRead(addr, 1)` (R7, R52). -/
def Memory.read (m : Memory) (a : Addr) : Byte := Memory.readAt m a.toNat

/-- `MemWrite(addr, 1, v)` (R7, R52, R57): exactly the byte written changes. -/
def Memory.write (m : Memory) (a : Addr) (v : Byte) : Memory :=
  if v = Memory.unlisted a.toNat then Memory.eraseAt m a.toNat else Memory.insertAt m a.toNat v

/-- The canonical form from address `lo` on: addresses strictly rising and inside the 4096 bytes, and no entry equal to
what its address reads as when it is not listed. -/
def Memory.wfFrom : Nat → Memory → Bool
  | _, [] => true
  | lo, (k, b) :: m =>
    decide (lo ≤ k) && decide (k < Config.memSize) && b != Memory.unlisted k && Memory.wfFrom (k + 1) m

/-- The canonical form of memory. -/
def Memory.wf (m : Memory) : Bool := Memory.wfFrom 0 m

/-- Bytes written one after another from a numbered address on. -/
def Memory.load : Memory → Nat → List Byte → Memory
  | m, _, [] => m
  | m, a, b :: bytes => Memory.load (Memory.write m (A12 a) b) (a + 1) bytes

/-- `MemRead(addr, 1)` on the state. -/
def State.readMem (s : State) (a : Addr) : Byte := Memory.read s.mem a

/-- `MemWrite(addr, 1, v)` on the state. -/
def State.writeMem (s : State) (a : Addr) (v : Byte) : State := { s with mem := Memory.write s.mem a v }

/-! ### Registers (R7, R21, R24 to R27) -/

/-- `V[i]`. -/
def State.getV (s : State) (x : Reg) : Byte := s.v[x.toNat]'x.isLt

/-- `V[i] <- v`. -/
def State.setV (s : State) (x : Reg) (b : Byte) : State := { s with v := s.v.set x.toNat b x.isLt }

/-- `I <- v`. -/
def State.setI (s : State) (a : Word) : State := { s with i := a }

/-- `DT <- v`. -/
def State.setDT (s : State) (b : Byte) : State := { s with dt := b }

/-- `ST <- v`. -/
def State.setST (s : State) (b : Byte) : State := { s with st := b }

/-- `pc <- target`, reduced modulo 2^16 by its width (R7). -/
def State.setPC (s : State) (a : Word) : State := { s with pc := a }

/-- `pc <- pc + 2`: one instruction width (R24, R25). -/
def State.advance (s : State) : State := s.setPC (s.pc + 2)

/-- `pc <- pc + 4` if the skip condition holds, else `pc <- pc + 2` (R25). -/
def State.skipIf (s : State) (condition : Bool) : State := s.setPC (if condition then s.pc + 4 else s.pc + 2)

/-! ### Stack (R28) -/

/-- `Push(v)`: appends the newest entry. -/
def State.push (s : State) (a : Word) : State := { s with stack := s.stack ++ [a] }

/-- The state after `Pop()`: the newest entry is gone. -/
def State.dropTop (s : State) : State := { s with stack := s.stack.dropLast }

/-! ### Display (R29, R35, R252) -/

/-- `FB[row][col]`, for a row of the screen. -/
def Framebuffer.cell (fb : Framebuffer) (row col : Nat) : Bool :=
  if h : row < 32 then (fb[row]'h).getLsbD col else false

/-- The bit of the linear index `k = 64 * row + col` (R29, R194). -/
def Framebuffer.bitAt (fb : Framebuffer) (k : Nat) : Bool := fb.cell (k / Config.fbWidth) (k % Config.fbWidth)

/-- `FB[row][col] <- FB[row][col] XOR 1`. -/
def Framebuffer.toggle (fb : Framebuffer) (row col : Nat) : Framebuffer :=
  if h : row < 32 then fb.set row ((fb[row]'h) ^^^ BitVec.twoPow 64 col) h else fb

/-- The framebuffer replaced. -/
def State.setFB (s : State) (fb : Framebuffer) : State := { s with fb := fb }

/-- `Emit(cmd)`: appends to the output stream. -/
def State.emit (s : State) (c : DisplayCommand) : State := { s with out := s.out ++ [c] }

/-! ### Keys and the key wait (R30 to R33) -/

/-- `KeyDown(k)`: whether key `k` is in the pressed set. -/
def Keys.isDown (keys : Keys) (k : Key) : Bool := keys.pressed.getLsbD k.toNat

/-- The state after `ClearReleased()` or `TakeReleased()`: the slot is None. -/
def State.clearReleased (s : State) : State := { s with keys := { s.keys with lastReleased := none } }

/-- The key-wait state replaced. -/
def State.setWait (s : State) (w : Wait) : State := { s with wait := w }

/-! ### The random source (R254) -/

/-- `Draw8()`: the free byte of this draw. -/
def State.drawnByte (s : State) : Byte := Config.randomByte s.draws

/-- One draw has been taken. -/
def State.countDraw (s : State) : State := { s with draws := s.draws + 1 }

/-! ### Fetch (R71) -/

/-- `Fetch(pc)`: the bytes at `A12(pc)` and `A12(pc + 1)`, high byte first; it never faults. -/
def State.fetch (s : State) : Word :=
  wordOfBytes (s.readMem (A12 s.pc.toNat)) (s.readMem (A12 (s.pc.toNat + 1)))

/-! ### Taking an exception, and the way out of it -/

/-- The cause numbers of 60_exceptions.md R241 and R242 (the spec's own numbering, D28). -/
def FaultCause.code : FaultCause → Nat
  | .stackUnderflow => 1
  | .stackOverflow => 2

/-- `raise Fault(cause)` (R7, R243): none of the instruction's writes happen, `pc` stays, and the record is set. No mode
changes and no handler is entered (R248). Taken as a next state (DEDUCED, log 3); the word is the instruction's own
encoding (DEDUCED, log 3). -/
def State.raiseFault (s : State) (cause : FaultCause) (i : Instr) : State :=
  { s with fault := some { cause := cause, pc := s.pc, word := encode i } }

/-- How many bytes of a ROM image the loader writes: 0x1000 - 0x200 (R62, D30). -/
def romCapacity : Nat := 3584

/-- The memory after loading a ROM image: `mem[0x200 + i] <- b[i]` for `i < min(len, 3584)`, all else as at reset
(R271, R62). -/
def romMemory (rom : List Byte) : Memory := Memory.load [] Config.progBase (rom.take romCapacity)

/-- `Reset(rom)` (R270, R271): every component at R39's value, the ROM loaded, `keys.pressed` as the host holds it. It
is the only way out of the faulted state (R249), and it launches the engine (R274; log 11). The model's own draws and
turns go on (DESIGN CHOICE, log 12). -/
def State.hostReset (s : State) (rom : List Byte) : State :=
  { State.reset with
    mem := romMemory rom
    keys := { pressed := s.keys.pressed, lastReleased := none }
    draws := s.draws
    schedule := s.schedule
    launched := true }

/-! ### The outcome of an engine step (R9) -/

/-- *Advance*, *Blocked* or *Fault* (R9). -/
inductive Report where
  | advance
  | blocked
  | fault
  deriving DecidableEq, Repr

/-- The outcome an engine step reports, read off its next state: *Fault* when the record is set (R243), *Blocked* when a
key wait is pending (R213, R214), else *Advance* (DEDUCED, log 10). -/
def State.report (s : State) : Report :=
  match s.fault with
  | some _ => .fault
  | none =>
    match s.wait with
    | .waiting _ => .blocked
    | .idle => .advance

end Sys2Proof.Machine
end

