-- ==== Sys2Proof/Machine/Flags.lean ====
section
/-! DEFINITION. The flag computations of 10_state.md R22 and the order of a result and its flag (R37, R131). -/

namespace Sys2Proof.Machine

/-- A flag as VF holds it: 1 or 0. -/
def flagByte (flag : Bool) : Byte := if flag then 0x01#8 else 0x00#8

/-- Carry of 8XY4: "1 iff Vx + Vy > 255" (R22, R138). -/
def carryOf (a b : Byte) : Bool := decide (a.toNat + b.toNat > 255)

/-- No borrow of `a - b`: "iff `x ≥ y` (no borrow) before the subtraction" (R22, R139, R141). -/
def noBorrowOf (a b : Byte) : Bool := decide (a.toNat ≥ b.toNat)

/-- The bit a right shift drops: bit 0 (R22, R140). -/
def shiftedOutRight (b : Byte) : Bool := b.getLsbD 0

/-- The bit a left shift drops: bit 7 (R22, R142). -/
def shiftedOutLeft (b : Byte) : Bool := b.getLsbD 7

/-- The result goes to Vx and then the flag to VF, so with x = 0xF the flag is what VF holds (R37, R131). -/
def State.setVThenFlag (s : State) (x : Reg) (result : Byte) (flag : Bool) : State :=
  (s.setV x result).setV VF (flagByte flag)

end Sys2Proof.Machine
end

