-- ==== Sys2Proof/Machine/Alu.lean ====
section
/-! DEFINITION. The meanings of 41_alu.md: loads, wrapping arithmetic, logic, shifts, random (R130 to R144). -/

namespace Sys2Proof.Machine

/-- 6XKK LD Vx, byte (R132). -/
def execLdImm (x : Reg) (kk : Byte) (s : State) : Host.Outcome State Fault Refusal :=
  .next (s.setV x kk).advance

/-- 7XKK ADD Vx, byte: wraps, no flag (R133). -/
def execAddImm (x : Reg) (kk : Byte) (s : State) : Host.Outcome State Fault Refusal :=
  .next (s.setV x (s.getV x + kk)).advance

/-- 8XY0 LD Vx, Vy (R134). -/
def execLdReg (x y : Reg) (s : State) : Host.Outcome State Fault Refusal :=
  .next (s.setV x (s.getV y)).advance

/-- 8XY1 OR Vx, Vy: VF is not written unless x = 0xF (R135; UNVERIFIED for D7, log 8). -/
def execOr (x y : Reg) (s : State) : Host.Outcome State Fault Refusal :=
  .next (s.setV x (s.getV x ||| s.getV y)).advance

/-- 8XY2 AND Vx, Vy (R136; UNVERIFIED for D7, log 8). -/
def execAnd (x y : Reg) (s : State) : Host.Outcome State Fault Refusal :=
  .next (s.setV x (s.getV x &&& s.getV y)).advance

/-- 8XY3 XOR Vx, Vy (R137; UNVERIFIED for D7, log 8). -/
def execXor (x y : Reg) (s : State) : Host.Outcome State Fault Refusal :=
  .next (s.setV x (s.getV x ^^^ s.getV y)).advance

/-- 8XY4 ADD Vx, Vy with carry (R138). -/
def execAddReg (x y : Reg) (s : State) : Host.Outcome State Fault Refusal :=
  .next (s.setVThenFlag x (s.getV x + s.getV y) (carryOf (s.getV x) (s.getV y))).advance

/-- 8XY5 SUB Vx, Vy with no-borrow flag (R139). -/
def execSub (x y : Reg) (s : State) : Host.Outcome State Fault Refusal :=
  .next (s.setVThenFlag x (s.getV x - s.getV y) (noBorrowOf (s.getV x) (s.getV y))).advance

/-- 8XY6 SHR Vx, Vy: Vy shifted into Vx (R140). -/
def execShr (x y : Reg) (s : State) : Host.Outcome State Fault Refusal :=
  .next (s.setVThenFlag x (s.getV y >>> 1) (shiftedOutRight (s.getV y))).advance

/-- 8XY7 SUBN Vx, Vy: the reverse subtraction (R141). -/
def execSubn (x y : Reg) (s : State) : Host.Outcome State Fault Refusal :=
  .next (s.setVThenFlag x (s.getV y - s.getV x) (noBorrowOf (s.getV y) (s.getV x))).advance

/-- 8XYE SHL Vx, Vy: Vy shifted into Vx (R142). -/
def execShl (x y : Reg) (s : State) : Host.Outcome State Fault Refusal :=
  .next (s.setVThenFlag x (s.getV y <<< 1) (shiftedOutLeft (s.getV y))).advance

/-- CXKK RND Vx, byte: `V[x] <- r8 AND kk` with `r8` the free byte of this draw (R143, R254; log 2). -/
def execRnd (x : Reg) (kk : Byte) (s : State) : Host.Outcome State Fault Refusal :=
  .next (s.setV x (s.drawnByte &&& kk)).countDraw.advance

end Sys2Proof.Machine
end

