-- ==== Sys2Proof/Machine/Operands.lean ====
section
/-! DEFINITION. The operand forms: immediates (30_encoding.md R74, R75), memory at I + k (20_memory.md R53), register
blocks V0..Vx (R73), the key number in Vx (R210), and the glyph address (R162). -/

namespace Sys2Proof.Machine

/-- `zext_16(nnn)` (R75). -/
def zextAddr (nnn : Addr) : Word := nnn.setWidth 16

/-- `zext_16(V[x])` (R109, R161). -/
def zextByte (b : Byte) : Word := b.setWidth 16

/-- `zext_8(key)` (R214). -/
def zextKey (k : Key) : Byte := k.setWidth 8

/-- The address of the k-th byte of a data access, `A12(I + k)`, the sum not truncated before the mask (R53). -/
def State.dataAddr (s : State) (k : Nat) : Addr := A12 (s.i.toNat + k)

/-- The k-th register of a block V0..Vx (R73). -/
def blockReg (k : Nat) : Reg := BitVec.ofNat 4 k

/-- The first `n` registers written to memory from `I` on, the lowest first (R164). -/
def State.storeBlock (s : State) : Nat → State
  | 0 => s
  | k + 1 => (s.storeBlock k).writeMem (s.dataAddr k) (s.getV (blockReg k))

/-- The first `n` registers read from memory from `I` on, the lowest first (R165). -/
def State.loadBlock (s : State) : Nat → State
  | 0 => s
  | k + 1 => (s.loadBlock k).setV (blockReg k) (s.readMem (s.dataAddr k))

/-- `k <= 0xF and KeyDown(k)`: a value above 0xF names no key and counts as not pressed (R210, R211; UNVERIFIED for the
spec's own decision D17, log 8). -/
def State.keyNamedDown (s : State) (b : Byte) : Bool :=
  decide (b.toNat ≤ 0xF) && s.keys.isDown (b.setWidth 4)

/-- `FONT_BASE` (R5; UNVERIFIED for the spec's own decision D9, log 8). -/
def fontBase : Word := 0x000#16

/-- `FONT_STRIDE`, bytes a glyph (R5; UNVERIFIED, general knowledge G10, log 9). -/
def fontStride : Word := 5#16

/-- `FONT_BASE + FONT_STRIDE * zext_16(V[x] AND 0x0F)` (R162). -/
def glyphAddr (b : Byte) : Word := fontBase + fontStride * zextByte (b &&& 0x0F#8)

/-- `v div 100` (R163). -/
def bcdHundreds (b : Byte) : Byte := BitVec.ofNat 8 (b.toNat / 100)
/-- `(v div 10) mod 10` (R163). -/
def bcdTens (b : Byte) : Byte := BitVec.ofNat 8 (b.toNat / 10 % 10)
/-- `v mod 10` (R163). -/
def bcdOnes (b : Byte) : Byte := BitVec.ofNat 8 (b.toNat % 10)

end Sys2Proof.Machine
end

