-- ==== Sys2Proof/Machine/ControlFlow.lean ====
section
/-! DEFINITION. The meanings of 40_control_flow.md: no-op, return, jumps, call, skips (R101 to R109). -/

namespace Sys2Proof.Machine

/-- NOP, a decode miss: `pc <- pc + 2` (R101). -/
def execNop (_word : Word) (s : State) : Host.Outcome State Fault Refusal := .next s.advance

/-- 0NNN SYS: the no-op; it calls no machine code at `nnn` (R78, R101). -/
def execSys (_nnn : Addr) (s : State) : Host.Outcome State Fault Refusal := .next s.advance

/-- 00EE RET: `pc <- Pop()` with no adjustment; StackUnderflow when the stack is empty (R102, R241, C4). -/
def execRet (s : State) : Host.Outcome State Fault Refusal :=
  match s.stack.getLast? with
  | none => .next (s.raiseFault .stackUnderflow .ret)
  | some target => .next (s.dropTop.setPC target)

/-- 1NNN JP: `pc <- zext_16(nnn)` (R103). -/
def execJp (nnn : Addr) (s : State) : Host.Outcome State Fault Refusal := .next (s.setPC (zextAddr nnn))

/-- 2NNN CALL: pushes `pc + 2`, then `pc <- zext_16(nnn)`; StackOverflow when 16 entries are there (R104, R242; the
overflow is UNVERIFIED, the spec's own decision D12, log 7). -/
def execCall (nnn : Addr) (s : State) : Host.Outcome State Fault Refusal :=
  if s.stack.length < Config.stackDepth then .next ((s.push (s.pc + 2)).setPC (zextAddr nnn))
  else .next (s.raiseFault .stackOverflow (.call nnn))

/-- 3XKK SE Vx, byte (R105). -/
def execSeImm (x : Reg) (kk : Byte) (s : State) : Host.Outcome State Fault Refusal :=
  .next (s.skipIf (s.getV x == kk))

/-- 4XKK SNE Vx, byte (R106). -/
def execSneImm (x : Reg) (kk : Byte) (s : State) : Host.Outcome State Fault Refusal :=
  .next (s.skipIf (s.getV x != kk))

/-- 5XY0 SE Vx, Vy (R107). -/
def execSeReg (x y : Reg) (s : State) : Host.Outcome State Fault Refusal :=
  .next (s.skipIf (s.getV x == s.getV y))

/-- 9XY0 SNE Vx, Vy (R108). -/
def execSneReg (x y : Reg) (s : State) : Host.Outcome State Fault Refusal :=
  .next (s.skipIf (s.getV x != s.getV y))

/-- BNNN JP V0, addr: `pc <- zext_16(nnn) + zext_16(V[0])`, always V0 (R109; UNVERIFIED for D8, log 8). -/
def execJpV0 (nnn : Addr) (s : State) : Host.Outcome State Fault Refusal :=
  .next (s.setPC (zextAddr nnn + zextByte (s.getV 0x0#4)))

end Sys2Proof.Machine
end

