-- ==== Sys2Proof/Machine/Display.lean ====
section
/-! DEFINITION. The meanings of 43_display.md: CLS and DRW (R190 to R194). -/

namespace Sys2Proof.Machine

/-- 00E0 CLS: every cell off, and a Clear command, even when the screen was off (R190; UNVERIFIED for D14, log 8). -/
def execCls (s : State) : Host.Outcome State Fault Refusal :=
  .next ((s.setFB Framebuffer.allOff).emit .clear).advance

/-- One bit of a sprite at its cell: a 0 bit changes nothing; a 1 bit turns the cell over and is a collision when the
cell was on (R191). -/
def drawPixel (acc : Framebuffer × Bool) (bit : Bool) (row col : Nat) : Framebuffer × Bool :=
  if bit then (Framebuffer.toggle acc.1 row col, acc.2 || Framebuffer.cell acc.1 row col) else acc

/-- The first `n` columns of a sprite row: bit 7 at `ox`, bit 6 at `ox + 1`, …, each modulo 64 (R191, R192). -/
def drawColumns (acc : Framebuffer × Bool) (bits : Byte) (row ox : Nat) : Nat → Framebuffer × Bool
  | 0 => acc
  | c + 1 => drawPixel (drawColumns acc bits row ox c) (bits.getLsbD (7 - c)) row ((ox + c) % Config.fbWidth)

/-- The first `n` rows of a sprite: the byte at `A12(I + r)` at row `oy + r`, modulo 32 (R191, R192). -/
def State.drawRows (s : State) (ox oy : Nat) : Nat → Framebuffer × Bool
  | 0 => (s.fb, false)
  | r + 1 =>
    drawColumns (s.drawRows ox oy r) (s.readMem (s.dataAddr r)) ((oy + r) % Config.fbHeight) ox 8

/-- DXYN DRW Vx, Vy, nibble: the sprite at (Vx, Vy), VF the collision, and a Present command always (R191; UNVERIFIED
for D13, D14 and D15, log 8). The origin is read before VF is written. -/
def execDrw (x y : Reg) (n : Nybble) (s : State) : Host.Outcome State Fault Refusal :=
  let drawn := s.drawRows (s.getV x).toNat (s.getV y).toNat n.toNat
  .next (((s.setFB drawn.1).setV VF (flagByte drawn.2)).emit (.present drawn.1)).advance

end Sys2Proof.Machine
end

