-- ==== Sys2Proof/Machine/IndexMemory.lean ====
section
/-! DEFINITION. The meanings of 42_index_memory.md: the index register and the memory blocks (R160 to R165). -/

namespace Sys2Proof.Machine

/-- ANNN LD I, addr (R160). -/
def execLdI (nnn : Addr) (s : State) : Host.Outcome State Fault Refusal :=
  .next (s.setI (zextAddr nnn)).advance

/-- FX1E ADD I, Vx: modulo 2^16, no flag (R161; UNVERIFIED for D5, log 8). -/
def execAddI (x : Reg) (s : State) : Host.Outcome State Fault Refusal :=
  .next (s.setI (s.i + zextByte (s.getV x))).advance

/-- FX29 LD F, Vx: the glyph address of the low nybble (R162; UNVERIFIED for D9, log 8). -/
def execLdF (x : Reg) (s : State) : Host.Outcome State Fault Refusal :=
  .next (s.setI (glyphAddr (s.getV x))).advance

/-- FX33 LD B, Vx: three decimal digits from `I` on, hundreds first; I unchanged (R163). -/
def execLdB (x : Reg) (s : State) : Host.Outcome State Fault Refusal :=
  .next (((s.writeMem (s.dataAddr 0) (bcdHundreds (s.getV x))).writeMem (s.dataAddr 1) (bcdTens (s.getV x))).writeMem
    (s.dataAddr 2) (bcdOnes (s.getV x))).advance

/-- FX55 LD [I], Vx: V0..Vx inclusive to memory; I unchanged (R164; UNVERIFIED for D6, log 8). -/
def execLdMem (x : Reg) (s : State) : Host.Outcome State Fault Refusal :=
  .next (s.storeBlock (x.toNat + 1)).advance

/-- FX65 LD Vx, [I]: V0..Vx inclusive from memory; I unchanged (R165; UNVERIFIED for D6, log 8). -/
def execLdXMem (x : Reg) (s : State) : Host.Outcome State Fault Refusal :=
  .next (s.loadBlock (x.toNat + 1)).advance

end Sys2Proof.Machine
end

