-- ==== Sys2Proof/Machine/KeysTimers.lean ====
section
/-! DEFINITION. The meanings of 44_keys_timers.md: key tests, the key wait, and the timer instructions (R210 to R218). -/

namespace Sys2Proof.Machine

/-- EX9E SKP Vx (R210). -/
def execSkp (x : Reg) (s : State) : Host.Outcome State Fault Refusal :=
  .next (s.skipIf (s.keyNamedDown (s.getV x)))

/-- EXA1 SKNP Vx (R211). -/
def execSknp (x : Reg) (s : State) : Host.Outcome State Fault Refusal :=
  .next (s.skipIf (!s.keyNamedDown (s.getV x)))

/-- FX07 LD Vx, DT (R216). -/
def execLdXDT (x : Reg) (s : State) : Host.Outcome State Fault Refusal :=
  .next (s.setV x s.dt).advance

/-- FX15 LD DT, Vx (R217). -/
def execLdDT (x : Reg) (s : State) : Host.Outcome State Fault Refusal :=
  .next (s.setDT (s.getV x)).advance

/-- FX18 LD ST, Vx (R218). -/
def execLdST (x : Reg) (s : State) : Host.Outcome State Fault Refusal :=
  .next (s.setST (s.getV x)).advance

/-- FX0A LD Vx, K, its first step: the slot is cleared, the wait is recorded, `pc` stays; *Blocked* (R213). -/
def execLdK (x : Reg) (s : State) : Host.Outcome State Fault Refusal :=
  .next (s.clearReleased.setWait (.waiting x))

/-- FX0A, a poll step, in place of fetch and decode: with an empty slot nothing changes; with a key the wait ends (R214). -/
def State.pollKey (s : State) (target : Reg) : State :=
  match s.keys.lastReleased with
  | none => s
  | some key => ((s.clearReleased.setV target (zextKey key)).setWait .idle).advance

end Sys2Proof.Machine
end

