-- ==== Sys2Proof/Machine/HostEvents.lean ====
section
/-! DEFINITION. The host's events (00_scope.md R10): the timer tick, the key events and the reset. -/

namespace Sys2Proof.Machine

/-- One down, stopping at 0 (R220). -/
def countDown (b : Byte) : Byte := if b = 0 then 0 else b - 1

/-- `Tick` (R220): both timers down by one. In the faulted state it changes nothing (R243, D20). -/
def State.tick (s : State) : State :=
  match s.fault with
  | none => (s.setDT (countDown s.dt)).setST (countDown s.st)
  | some _ => s

/-- `Press(k)`: `keys.pressed <- keys.pressed ∪ {k}` (R33). -/
def State.press (s : State) (k : Key) : State :=
  { s with keys := { s.keys with pressed := s.keys.pressed ||| BitVec.twoPow 16 k.toNat } }

/-- `Release(k)`: the key leaves the set and the slot holds it, whether or not it was pressed (R33, D18). -/
def State.release (s : State) (k : Key) : State :=
  { s with keys := { pressed := s.keys.pressed &&& ~~~BitVec.twoPow 16 k.toNat, lastReleased := some k } }

/-- One event, taken between two engine steps (R10). -/
def State.applyEvent (s : State) : HostEvent → State
  | .tick => s.tick
  | .press k => s.press k
  | .release k => s.release k
  | .reset rom => s.hostReset rom

end Sys2Proof.Machine
end

