-- ==== Sys2Proof/Machine/Step.lean ====
section
/-! DEFINITION. One step of the machine: an engine step (30_encoding.md R70) or a host event (00_scope.md R10), as the
schedule says, and the placing of an instruction where the next step fetches. -/

namespace Sys2Proof.Machine

/-- `EngineStep` of R70: no run before a ROM has been loaded (R272, R274; log 11), no step in the faulted state
(DEDUCED, log 3), a poll while a key wait is pending, else fetch, decode, execute (`exec` on other states: log 15). -/
def engineStep (s : State) : Host.Outcome State Fault Refusal :=
  match s.launched with
  | false => .refused .notLaunched
  | true =>
    match s.fault with
    | some record => .fault (.faulted record)
    | none =>
      match s.wait with
      | .waiting target => .next (s.pollKey target)
      | .idle => exec (decode s.fetch) s

/-- One turn: the engine's, or one host event (R10; log 1); after the last turn listed, the engine's for ever (log 17). No
event falls inside an engine step. -/
def step (s : State) : Host.Outcome State Fault Refusal :=
  match s.schedule with
  | [] => engineStep s
  | .engine :: rest => engineStep { s with schedule := rest }
  | .host e :: rest => .next (State.applyEvent { s with schedule := rest } e)

/-- The schedule with the engine's turn first. -/
def engineFirst : List Turn → List Turn
  | [] => []
  | .engine :: rest => .engine :: rest
  | .host e :: rest => .engine :: .host e :: rest

/-- The instruction word of the table stored at `A12(pc)` and `A12(pc + 1)`, the engine launched and its turn first, no
wait pending and no fault, so that the very next step fetches and runs it (log 11). -/
def State.withFetchWord (s : State) (nbits w : Nat) : State :=
  { (s.writeMem (A12 s.pc.toNat) (highByte (tableWord nbits w))).writeMem (A12 (s.pc.toNat + 1))
      (lowByte (tableWord nbits w)) with
    wait := .idle
    fault := none
    schedule := engineFirst s.schedule
    launched := true }

end Sys2Proof.Machine
end

