-- ==== Sys2Proof/Safety.lean ====
section
/-! DEFINITION. The terms claims use: the parts of the state and what leaves them unchanged, runs, the invariants of the
machine, the parked state (70_reset_and_hazards.md R275), stored bytes (20_memory.md R53), and the cells a sprite covers
(43_display.md R191). -/

namespace Sys2Proof.Machine

/-! ### Frames -/

/-- The parts of the state (10_state.md R20), each register and each byte of memory a part of its own, and the model's
own three fields. -/
inductive Part where
  | v (r : Reg) | i | pc | dt | st | stack | mem (a : Addr) | fb | wait | pressed | lastReleased | fault | out
  | draws | schedule | launched
  deriving DecidableEq, Repr

/-- The part holds the same in both states; a byte of memory through the read of one byte. -/
def Part.Same (s t : State) : Part → Prop
  | .v r => t.getV r = s.getV r
  | .i => t.i = s.i
  | .pc => t.pc = s.pc
  | .dt => t.dt = s.dt
  | .st => t.st = s.st
  | .stack => t.stack = s.stack
  | .mem a => t.readMem a = s.readMem a
  | .fb => t.fb = s.fb
  | .wait => t.wait = s.wait
  | .pressed => t.keys.pressed = s.keys.pressed
  | .lastReleased => t.keys.lastReleased = s.keys.lastReleased
  | .fault => t.fault = s.fault
  | .out => t.out = s.out
  | .draws => t.draws = s.draws
  | .schedule => t.schedule = s.schedule
  | .launched => t.launched = s.launched

/-- From `s` to `t` every part outside the list is unchanged. -/
def ChangesOnly (s t : State) (parts : List Part) : Prop := ∀ p, p ∉ parts → Part.Same s t p

/-! ### Runs -/

/-- `n` steps, ending at the first that gives no next state. -/
def runSteps : Nat → State → Host.Outcome State Fault Refusal
  | 0, s => .next s
  | n + 1, s =>
    match step s with
    | .next t => runSteps n t
    | .fault r => .fault r
    | .refused r => .refused r

/-- A safe run: `n` steps, none of them from a faulted state or into one (R243). -/
def SafeRun : Nat → State → Prop
  | 0, s => s.fault = none
  | n + 1, s => s.fault = none ∧ ∃ t, step s = .next t ∧ SafeRun n t

/-- A turn that gives the key wait nothing: the engine's, a tick, a press (R214, R215). -/
def Turn.quiet : Turn → Bool
  | .engine => true
  | .host .tick => true
  | .host (.press _) => true
  | .host (.release _) => false
  | .host (.reset _) => false

/-- The next turn is the engine's. -/
def EngineTurn (s : State) (rest : List Turn) : Prop :=
  s.schedule = .engine :: rest ∨ (s.schedule = [] ∧ rest = [])

/-- The engine moves next: a ROM has been loaded, and the turn is the engine's (R274; log 11). -/
def EngineMoves (s : State) (rest : List Turn) : Prop := s.launched = true ∧ EngineTurn s rest

/-! ### Invariants -/

/-- The fault record is the diagnostic of the instruction at pc, and the stack is as that fault says (R34, R241 to
R243). -/
structure FaultRecorded (s : State) (record : FaultRecord) : Prop where
  notWaiting : s.wait = .idle
  atPC : record.pc = s.pc
  wordFetched : record.word = s.fetch
  underflow : record.cause = .stackUnderflow → s.stack = [] ∧ decode record.word = .ret
  overflow : record.cause = .stackOverflow → s.stack.length = 16 ∧ ∃ nnn, decode record.word = .call nnn

/-- What every step of the machine keeps: memory in canonical form (R50, R57), at most 16 return addresses (R28), a
pending key wait is the FX0A that pc still addresses (R30, R214), and the fault record tells the truth (R34, R243); and
before the first Reset(rom) nothing but the keys has moved (R272, R274). -/
structure Inv (s : State) : Prop where
  memoryCanonical : Memory.wf s.mem = true
  stackBounded : s.stack.length ≤ 16
  waitIsFetched : ∀ x, s.wait = .waiting x → decode s.fetch = .ldK x
  faultRecorded : ∀ record, s.fault = some record → FaultRecorded s record
  atStartUntilReset : s.launched = false → ∃ keys schedule, s = { State.reset with keys := keys, schedule := schedule }

/-- The framebuffer is what the last Display Command showed; all off before the first (R35, R39, R190, R194, R252). -/
def ScreenMatchesOutput (s : State) : Prop :=
  match s.out.getLast? with
  | none => s.fb = Framebuffer.allOff
  | some .clear => s.fb = Framebuffer.allOff
  | some (.present snapshot) => s.fb = snapshot

/-- The parked state of R275, of an engine that runs (R274): no fault, no wait, and a jump to itself at pc. -/
def Parked (s : State) : Prop :=
  s.launched = true ∧ s.fault = none ∧ s.wait = .idle ∧ ∃ nnn : Addr, decode s.fetch = .jp nnn ∧ nnn.toNat = s.pc.toNat

/-! ### Stores -/

/-- What the byte at an address holds after a data access stored the listed bytes from `A12(I)` on: the stored byte
where one lies there, else the byte that was there (R53, R57). -/
def HoldsAfterStore (s : State) (stored : List Byte) (a : Addr) (b : Byte) : Prop :=
  (∀ k (_ : k < stored.length), a = A12 (s.i.toNat + k) → b = stored[k]) ∧
    ((∀ k < stored.length, a ≠ A12 (s.i.toNat + k)) → b = s.readMem a)

/-! ### Sprites -/

/-- Some 1 bit of the sprite of DXYN falls on the cell: bit `7 - c` of the byte at `A12(I + r)`, drawn at row
`(Vy + r) mod 32` and column `(Vx + c) mod 64` (R191, R192). -/
def SpriteCovers (s : State) (x y : Reg) (n : Nybble) (row col : Nat) : Prop :=
  ∃ r c, r < n.toNat ∧ c < 8 ∧ (s.readMem (A12 (s.i.toNat + r))).getLsbD (7 - c) = true ∧
    row = ((s.getV y).toNat + r) % 32 ∧ col = ((s.getV x).toNat + c) % 64

/-- The cell is on. -/
def State.isOn (s : State) (row col : Nat) : Prop := Framebuffer.cell s.fb row col = true

end Sys2Proof.Machine
end

