-- ==== Sys2Proof/WellFormed.lean ====
section
/-! DEFINITION. Which terms of Instr stand for a word of their own row. -/

namespace Sys2Proof

/-- A SYS term is no word of the rows CLS and RET, which take priority over the row SYS; a NOP term's word matches no
operative row and is none of SYS's (spec/opcode_table.json, "priority" and "note"; R78, R85; DESIGN CHOICE of form,
log 4). Every other term's operands fill their fields, so nothing is left to check (R73, R74). -/
def Instr.wellFormed : Instr → Bool
  | .sys nnn => nnn != 0x0E0 && nnn != 0x0EE
  | .nop w => decodeMiss w && fieldHi w != 0x0
  | .cls => true
  | .ret => true
  | .jp _ => true
  | .call _ => true
  | .seImm _ _ => true
  | .sneImm _ _ => true
  | .seReg _ _ => true
  | .ldImm _ _ => true
  | .addImm _ _ => true
  | .ldReg _ _ => true
  | .or _ _ => true
  | .and _ _ => true
  | .xor _ _ => true
  | .addReg _ _ => true
  | .sub _ _ => true
  | .shr _ _ => true
  | .subn _ _ => true
  | .shl _ _ => true
  | .sneReg _ _ => true
  | .ldI _ => true
  | .jpV0 _ => true
  | .rnd _ _ => true
  | .drw _ _ _ => true
  | .skp _ => true
  | .sknp _ => true
  | .ldXDT _ => true
  | .ldK _ => true
  | .ldDT _ => true
  | .ldST _ => true
  | .addI _ => true
  | .ldF _ => true
  | .ldB _ => true
  | .ldMem _ => true
  | .ldXMem _ => true

end Sys2Proof
end

