-- ==== Sys2Proof/Certificates/Slice0/Obligations.lean ====
section
/-! DEFINITION. The statements for the provers, in OBLIGATIONS.json's order. -/

open Sys2Proof Sys2Proof.Machine

/-! ### Encoding (30_encoding.md) -/

/-- Every well-formed instruction of every family is read back from its own word (R72 to R83). -/
def Obligations.DecodeEncodeRoundTrip : Prop :=
  ∀ i : Instr, i.wellFormed = true → decode (encode i) = i

/-- Every one of the 65536 words decodes to a well-formed instruction whose word it is: no bit is dropped (R83, R84).
That the no-op words keep their bits is the model's choice (DESIGN CHOICE, log 4): the spec's NOP carries no operand
(R83) and is one variant (R84). -/
def Obligations.EncodeDecodeRoundTrip : Prop :=
  ∀ w : Word, (decode w).wellFormed = true ∧ encode (decode w) = w

/-- The decoder agrees with the masks of spec/opcode_table.json: an operative word matches exactly one operative row,
that of its variant; a no-op word matches none (R83, R85). -/
def Obligations.DecodeFollowsOpcodeTable : Prop :=
  ∀ w : Word, (opcodeRows.filter (rowMatches · w)).map OpcodeRow.variant =
    if (decode w).variant = .nop then [] else [(decode w).variant]

/-- Family 0x0 matches whole words: two of them, else the no-op (R78). -/
def Obligations.FamilyZeroMatchesWholeWords : Prop :=
  decode 0x00E0#16 = .cls ∧ decode 0x00EE#16 = .ret ∧
    ∀ w : Word, w.toNat ≤ 0x0FFF → w ≠ 0x00E0#16 → w ≠ 0x00EE#16 → (decode w).variant = .nop

/-- Words written out from the spec decode to what the spec says of them (95_test_vectors.md, section 2.1; R79 to R82).
-/
def Obligations.SampleWordsDecode : Prop :=
  decode 0x10EE#16 = .jp 0x0EE#12 ∧ decode 0x2FFF#16 = .call 0xFFF#12 ∧ decode 0x5120#16 = .seReg 1#4 2#4 ∧
  (decode 0x5121#16).variant = .nop ∧ decode 0x6005#16 = .ldImm 0#4 5#8 ∧ decode 0x7003#16 = .addImm 0#4 3#8 ∧
  (decode 0x8008#16).variant = .nop ∧ decode 0x8014#16 = .addReg 0#4 1#4 ∧ decode 0x800E#16 = .shl 0#4 0#4 ∧
  decode 0x9120#16 = .sneReg 1#4 2#4 ∧ decode 0xB000#16 = .jpV0 0#12 ∧ decode 0xD000#16 = .drw 0#4 0#4 0#4 ∧
  decode 0xE19E#16 = .skp 1#4 ∧ decode 0xE1A1#16 = .sknp 1#4 ∧ decode 0xF10A#16 = .ldK 1#4 ∧
  decode 0xFF65#16 = .ldXMem 15#4 ∧ (decode 0xFFFF#16).variant = .nop

/-! ### Fetch and step (00_scope.md, 30_encoding.md) -/

/-- Fetch reads the bytes at pc and pc + 1, each modulo 4096, the first the high byte (R71, R54; the spec's own decision
D4). -/
def Obligations.FetchReadsTwoMaskedBytes : Prop :=
  ∀ s : State, s.fetch.toNat =
    (s.readMem (BitVec.ofNat 12 (s.pc.toNat % 4096))).toNat * 256 +
      (s.readMem (BitVec.ofNat 12 ((s.pc.toNat + 1) % 4096))).toNat

/-- With a ROM loaded, no fault, no wait and the engine's turn, a step is the meaning of the instruction that the bytes
at pc decode to; the step adds only the taking of the turn (R70, R71; the schedule and the launch are the model's own,
log 1, log 11). -/
def Obligations.StepRunsDecodedInstruction : Prop :=
  ∀ (s : State) (rest : List Turn) (i : Instr), s.fault = none → s.wait = .idle → EngineMoves s rest →
    decode (wordOfBytes (s.readMem (A12 s.pc.toNat)) (s.readMem (A12 (s.pc.toNat + 1)))) = i →
    step s = exec i { s with schedule := rest }

/-- A turn of the host is its event and nothing of the engine: a Tick, a Press, a Release and a Reset each as its own
rule has it, in every state, also a faulted or a waiting one (R10, R33, R220, R270; the schedule is the model's own, log
1; Ticks and key events as events of their own are the spec's own decision D21). -/
def Obligations.HostTurnTakesOneEvent : Prop :=
  ∀ (s : State) (rest : List Turn),
    (s.schedule = .host .tick :: rest → step s = .next (State.tick { s with schedule := rest })) ∧
    (∀ k, s.schedule = .host (.press k) :: rest → step s = .next (State.press { s with schedule := rest } k)) ∧
    (∀ k, s.schedule = .host (.release k) :: rest → step s = .next (State.release { s with schedule := rest } k)) ∧
    (∀ rom, s.schedule = .host (.reset rom) :: rest → step s = .next (State.hostReset { s with schedule := rest } rom))

/-- The only stops of a step are an engine turn in the faulted state and, before any ROM has been loaded, an engine turn
at all; no instruction is ever refused (R240, R243, R272, the spec's own decision D20; the outcomes are the model's
reading, log 3, log 11). -/
def Obligations.StepStopsOnlyWhenFaultedOrNotLaunched : Prop :=
  ∀ s : State, (∀ f, step s = .fault f ↔
      ∃ record rest, s.fault = some record ∧ f = .faulted record ∧ EngineMoves s rest) ∧
    ∀ r, step s = .refused r ↔ r = .notLaunched ∧ s.launched = false ∧ ∃ rest, EngineTurn s rest

/-- The faulted state is left only by Reset: any other turn of the host keeps the record, and a Tick changes nothing
(R243, R249, the spec's own decision D20). -/
def Obligations.OnlyResetLeavesFaultedState : Prop :=
  ∀ (s : State) (record : FaultRecord) (e : HostEvent) (rest : List Turn),
    s.fault = some record → s.schedule = .host e :: rest →
      ∃ t, step s = .next t ∧
        ((∃ rom, e = .reset rom ∧ t.fault = none) ∨
         (e = .tick ∧ ChangesOnly s t [.schedule]) ∨
         (((∃ k, e = .press k) ∨ ∃ k, e = .release k) ∧ t.fault = some record ∧
           ChangesOnly s t [.pressed, .lastReleased, .schedule]))

/-! ### The host's events (10_state.md, 44_keys_timers.md, 70_reset_and_hazards.md) -/

/-- Tick: each timer exactly one down, stopping at 0; nothing else changes (R220). -/
def Obligations.TickCountsBothTimersDown : Prop :=
  ∀ s : State, s.fault = none →
    (s.dt.toNat > 0 → s.tick.dt.toNat + 1 = s.dt.toNat) ∧ (s.dt.toNat = 0 → s.tick.dt.toNat = 0) ∧
    (s.st.toNat > 0 → s.tick.st.toNat + 1 = s.st.toNat) ∧ (s.st.toNat = 0 → s.tick.st.toNat = 0) ∧
    ChangesOnly s s.tick [.dt, .st]

/-- Press adds a key to the set; Release takes it out and puts it in the slot, pressed or not; nothing else changes
(R33; the unmatched release is the spec's own decision D18). -/
def Obligations.KeyEventsUpdateInputState : Prop :=
  ∀ (s : State) (k j : Key),
    ((s.press k).keys.isDown j = true ↔ j = k ∨ s.keys.isDown j = true) ∧ ChangesOnly s (s.press k) [.pressed] ∧
    ((s.release k).keys.isDown j = true ↔ j ≠ k ∧ s.keys.isDown j = true) ∧
    (s.release k).keys.lastReleased = some k ∧ ChangesOnly s (s.release k) [.pressed, .lastReleased]

/-- Reset(rom): at most 3584 ROM bytes from 0x200 on, 0x00 everywhere else, and every other component at its reset
value, the pressed set kept, and the engine launched (R39, R62, R270, R271, R274; the launch flag is the model's own,
log 11; the values other than pc and fault are the spec's own decisions D10, D11). -/
def Obligations.ResetLoadsRomAndClearsState : Prop :=
  ∀ (s : State) (rom : List Byte),
    (∀ k (_ : k < rom.length), k < 3584 → (s.hostReset rom).readMem (BitVec.ofNat 12 (0x200 + k)) = rom[k]) ∧
    (∀ a : Addr, (a.toNat < 0x200 ∨ 0x200 + rom.length ≤ a.toNat) → (s.hostReset rom).readMem a = 0x00#8) ∧
    (s.hostReset rom).pc = 0x200#16 ∧ (∀ r, (s.hostReset rom).getV r = 0x00#8) ∧ (s.hostReset rom).i = 0x0000#16 ∧
    (s.hostReset rom).dt = 0x00#8 ∧ (s.hostReset rom).st = 0x00#8 ∧ (s.hostReset rom).stack = [] ∧
    (∀ row < 32, ∀ col < 64, ¬ (s.hostReset rom).isOn row col) ∧ (s.hostReset rom).wait = .idle ∧
    (s.hostReset rom).keys.pressed = s.keys.pressed ∧ (s.hostReset rom).keys.lastReleased = none ∧
    (s.hostReset rom).fault = none ∧ (s.hostReset rom).out = [] ∧ (s.hostReset rom).launched = true

/-- The state at process start, before a ROM has been loaded (R39, R272; the values other than pc and fault are the
spec's own decisions D10, D11, log 5; the launch flag is the model's own, log 11). -/
def Obligations.ResetStateValues : Prop :=
  State.reset.pc = 0x200#16 ∧ (∀ r, State.reset.getV r = 0x00#8) ∧ State.reset.i = 0x0000#16 ∧
  State.reset.dt = 0x00#8 ∧ State.reset.st = 0x00#8 ∧ State.reset.stack = [] ∧
  (∀ a, State.reset.readMem a = 0x00#8) ∧ (∀ row < 32, ∀ col < 64, ¬ State.reset.isOn row col) ∧
  State.reset.wait = .idle ∧ (∀ k, State.reset.keys.isDown k = false) ∧ State.reset.keys.lastReleased = none ∧
  State.reset.fault = none ∧ State.reset.out = [] ∧ State.reset.launched = false

/-! ### Control flow (40_control_flow.md) -/

/-- Every word that matches no operative row is a no-op, and a no-op, SYS or NOP, advances pc by 2 and does nothing else
(R85, R101; which words match is general knowledge G1 and the spec's own decision D16). -/
def Obligations.NoOpWordsOnlyAdvance : Prop :=
  (∀ w : Word, decodeMiss w = true ↔ (decode w).variant = .nop) ∧
  ∀ (i : Instr) (s : State), i.variant = .nop →
    ∃ t, exec i s = .next t ∧ t.pc = s.pc + 2#16 ∧ ChangesOnly s t [.pc]

/-- RET pops the newest return address into pc, with no adjustment (R102, C4). -/
def Obligations.ReturnPopsNewestAddress : Prop :=
  ∀ (s : State) (rest : List Word) (target : Word), s.stack = rest ++ [target] →
    ∃ t, exec .ret s = .next t ∧ t.pc = target ∧ t.stack = rest ∧ ChangesOnly s t [.pc, .stack]

/-- RET on the empty stack takes the StackUnderflow fault, cause 1: the record and nothing else (R102, R241, R243; the
cause number is the spec's own, D28; the entry as a next state is the model's reading, log 3; so is the report, log 10).
-/
def Obligations.ReturnOnEmptyStackFaults : Prop :=
  ∀ s : State, s.stack = [] →
    ∃ t, exec .ret s = .next t ∧ t.fault = some ⟨.stackUnderflow, s.pc, 0x00EE#16⟩ ∧
      FaultCause.stackUnderflow.code = 1 ∧ t.report = .fault ∧ ChangesOnly s t [.fault]

/-- JP and JP V0 set pc to nnn and to nnn + V0, untruncated (R103, R109; general knowledge G2, G8 and the spec's own
decision D8). -/
def Obligations.JumpsSetPC : Prop :=
  ∀ (nnn : Addr) (s : State),
    (∃ t, exec (.jp nnn) s = .next t ∧ t.pc.toNat = nnn.toNat ∧ ChangesOnly s t [.pc]) ∧
    (∃ t, exec (.jpV0 nnn) s = .next t ∧ t.pc.toNat = nnn.toNat + (s.getV 0#4).toNat ∧ ChangesOnly s t [.pc])

/-- CALL with room on the stack pushes pc + 2 as the newest entry and jumps (R104; general knowledge G2). -/
def Obligations.CallPushesReturnAddress : Prop :=
  ∀ (nnn : Addr) (s : State), s.stack.length < 16 →
    ∃ t, exec (.call nnn) s = .next t ∧ t.stack = s.stack ++ [s.pc + 2#16] ∧ t.pc.toNat = nnn.toNat ∧
      ChangesOnly s t [.pc, .stack]

/-- CALL with 16 entries takes the StackOverflow fault, cause 2: the record and nothing else (R104, R242, R243; the
spec's own decision D12, log 7; the cause number is the spec's own, D28; the entry as a next state is the model's
reading, log 3; so is the report, log 10). -/
def Obligations.CallOnFullStackFaults : Prop :=
  ∀ (nnn : Addr) (s : State), s.stack.length = 16 →
    ∃ t record, exec (.call nnn) s = .next t ∧ t.fault = some record ∧ record.cause = .stackOverflow ∧
      FaultCause.stackOverflow.code = 2 ∧ record.pc = s.pc ∧ record.word.toNat = 0x2000 + nnn.toNat ∧
      t.report = .fault ∧ ChangesOnly s t [.fault]

/-- The four compare-and-skip instructions advance by 4 when their condition holds, else by 2 (R105 to R108; the
encodings and conditions are general knowledge, G2, G4, G6). -/
def Obligations.SkipsAdvanceByComparison : Prop :=
  ∀ (x y : Reg) (kk : Byte) (s : State),
    (∃ t, exec (.seImm x kk) s = .next t ∧ (s.getV x = kk → t.pc = s.pc + 4#16) ∧
      (s.getV x ≠ kk → t.pc = s.pc + 2#16) ∧ ChangesOnly s t [.pc]) ∧
    (∃ t, exec (.sneImm x kk) s = .next t ∧ (s.getV x ≠ kk → t.pc = s.pc + 4#16) ∧
      (s.getV x = kk → t.pc = s.pc + 2#16) ∧ ChangesOnly s t [.pc]) ∧
    (∃ t, exec (.seReg x y) s = .next t ∧ (s.getV x = s.getV y → t.pc = s.pc + 4#16) ∧
      (s.getV x ≠ s.getV y → t.pc = s.pc + 2#16) ∧ ChangesOnly s t [.pc]) ∧
    (∃ t, exec (.sneReg x y) s = .next t ∧ (s.getV x ≠ s.getV y → t.pc = s.pc + 4#16) ∧
      (s.getV x = s.getV y → t.pc = s.pc + 2#16) ∧ ChangesOnly s t [.pc])

/-- The stack law: a CALL at p and a RET at its target leave pc at p + 2 and everything else as before (R110; no
host turn comes and a ROM is loaded: log 1, log 11). -/
def Obligations.CallThenReturnResumes : Prop :=
  ∀ (s : State) (nnn : Addr), s.launched = true → s.fault = none → s.wait = .idle → s.schedule = [] → s.stack.length < 16 →
    decode s.fetch = .call nnn → s.readMem nnn = 0x00#8 → s.readMem (nnn + 1#12) = 0xEE#8 →
    ∃ t u, step s = .next t ∧ t.pc.toNat = nnn.toNat ∧ step t = .next u ∧ u.pc = s.pc + 2#16 ∧ ChangesOnly s u [.pc]

/-! ### Arithmetic and logic (41_alu.md) -/

/-- 6XKK loads the immediate (R132). -/
def Obligations.LoadImmediate : Prop :=
  ∀ (x : Reg) (kk : Byte) (s : State), decode (formatXKK 0x6#4 x kk) = .ldImm x kk ∧
    ∃ t, exec (.ldImm x kk) s = .next t ∧ t.getV x = kk ∧ t.pc = s.pc + 2#16 ∧ ChangesOnly s t [.v x, .pc]

/-- 7XKK adds modulo 256 and writes no flag (R133). -/
def Obligations.AddImmediateWrapsWithoutFlag : Prop :=
  ∀ (x : Reg) (kk : Byte) (s : State), decode (formatXKK 0x7#4 x kk) = .addImm x kk ∧
    ∃ t, exec (.addImm x kk) s = .next t ∧ (t.getV x).toNat = ((s.getV x).toNat + kk.toNat) % 256 ∧
      t.pc = s.pc + 2#16 ∧ ChangesOnly s t [.v x, .pc]

/-- 8XY0 to 8XY3: copy, OR, AND, XOR, bit by bit; VF is left alone unless it is Vx (R134 to R137; general knowledge G3,
G7, and the spec's own decision D7). -/
def Obligations.RegisterCopyAndLogic : Prop :=
  ∀ (x y : Reg) (s : State),
    (∃ t, exec (.ldReg x y) s = .next t ∧ t.getV x = s.getV y ∧ t.pc = s.pc + 2#16 ∧ ChangesOnly s t [.v x, .pc]) ∧
    (∃ t, exec (.or x y) s = .next t ∧
      (∀ b < 8, (t.getV x).getLsbD b = ((s.getV x).getLsbD b || (s.getV y).getLsbD b)) ∧
      t.pc = s.pc + 2#16 ∧ ChangesOnly s t [.v x, .pc]) ∧
    (∃ t, exec (.and x y) s = .next t ∧
      (∀ b < 8, (t.getV x).getLsbD b = ((s.getV x).getLsbD b && (s.getV y).getLsbD b)) ∧
      t.pc = s.pc + 2#16 ∧ ChangesOnly s t [.v x, .pc]) ∧
    (∃ t, exec (.xor x y) s = .next t ∧
      (∀ b < 8, (t.getV x).getLsbD b = ((s.getV x).getLsbD b ^^ (s.getV y).getLsbD b)) ∧
      t.pc = s.pc + 2#16 ∧ ChangesOnly s t [.v x, .pc])

/-- 8XY4: the sum modulo 256 in Vx, then the carry in VF, which with x = 0xF is what VF holds (R138). -/
def Obligations.AddRegistersWithCarry : Prop :=
  ∀ (x y : Reg) (s : State), decode (formatXYN 0x8#4 x y 0x4#4) = .addReg x y ∧
    ∃ t, exec (.addReg x y) s = .next t ∧
      (x ≠ VF → (t.getV x).toNat = ((s.getV x).toNat + (s.getV y).toNat) % 256) ∧
      (t.getV VF).toNat = (if (s.getV x).toNat + (s.getV y).toNat > 255 then 1 else 0) ∧
      t.pc = s.pc + 2#16 ∧ ChangesOnly s t [.v x, .v VF, .pc]

/-- 8XY5, 8XY6, 8XY7, 8XYE: result in Vx, then the flag in VF (R139 to R142, R144; the low nybbles are general
knowledge, G3). -/
def Obligations.SubtractAndShiftWithFlag : Prop :=
  ∀ (x y : Reg) (s : State),
    (∃ t, exec (.sub x y) s = .next t ∧
      (x ≠ VF → (t.getV x).toNat = (256 + (s.getV x).toNat - (s.getV y).toNat) % 256) ∧
      (t.getV VF).toNat = (if (s.getV x).toNat ≥ (s.getV y).toNat then 1 else 0) ∧
      t.pc = s.pc + 2#16 ∧ ChangesOnly s t [.v x, .v VF, .pc]) ∧
    (∃ t, exec (.shr x y) s = .next t ∧
      (x ≠ VF → (t.getV x).toNat = (s.getV y).toNat / 2) ∧ (t.getV VF).toNat = (s.getV y).toNat % 2 ∧
      t.pc = s.pc + 2#16 ∧ ChangesOnly s t [.v x, .v VF, .pc]) ∧
    (∃ t, exec (.subn x y) s = .next t ∧
      (x ≠ VF → (t.getV x).toNat = (256 + (s.getV y).toNat - (s.getV x).toNat) % 256) ∧
      (t.getV VF).toNat = (if (s.getV y).toNat ≥ (s.getV x).toNat then 1 else 0) ∧
      t.pc = s.pc + 2#16 ∧ ChangesOnly s t [.v x, .v VF, .pc]) ∧
    (∃ t, exec (.shl x y) s = .next t ∧
      (x ≠ VF → (t.getV x).toNat = 2 * (s.getV y).toNat % 256) ∧ (t.getV VF).toNat = (s.getV y).toNat / 128 ∧
      t.pc = s.pc + 2#16 ∧ ChangesOnly s t [.v x, .v VF, .pc])

/-- The flag is written last: with destination VF, the five flag-producing register instructions leave the flag of the
operands as read, not the result (R37). -/
def Obligations.FlagOverwritesResultInVF : Prop :=
  ∀ (y : Reg) (s : State),
    (∃ t, exec (.addReg VF y) s = .next t ∧
      (t.getV VF).toNat = if (s.getV VF).toNat + (s.getV y).toNat > 255 then 1 else 0) ∧
    (∃ t, exec (.sub VF y) s = .next t ∧ (t.getV VF).toNat = if (s.getV VF).toNat ≥ (s.getV y).toNat then 1 else 0) ∧
    (∃ t, exec (.shr VF y) s = .next t ∧ (t.getV VF).toNat = (s.getV y).toNat % 2) ∧
    (∃ t, exec (.subn VF y) s = .next t ∧ (t.getV VF).toNat = if (s.getV y).toNat ≥ (s.getV VF).toNat then 1 else 0) ∧
    (∃ t, exec (.shl VF y) s = .next t ∧ (t.getV VF).toNat = (s.getV y).toNat / 128)

/-- CXKK: the free byte of this draw under the mask; kk = 0x00 always gives 0; the draw is counted in the model's own
field (R143, R254, the spec's own decision D22, log 2; general knowledge G2). -/
def Obligations.RandomMasksDrawnByte : Prop :=
  ∀ (x : Reg) (kk : Byte) (s : State), ∃ t, exec (.rnd x kk) s = .next t ∧
    (∀ b < 8, (t.getV x).getLsbD b = ((Config.randomByte s.draws).getLsbD b && kk.getLsbD b)) ∧
    (kk = 0x00#8 → t.getV x = 0x00#8) ∧ t.draws = s.draws + 1 ∧ t.pc = s.pc + 2#16 ∧
    ChangesOnly s t [.v x, .pc, .draws]

/-! ### Index register and memory blocks (42_index_memory.md) -/

/-- ANNN, FX1E, FX29: I <- nnn; I <- I + Vx modulo 2^16 with no flag; I <- 5 * (Vx mod 16) (R160 to R162; general
knowledge G2, G5, G9, G10, and the spec's own decisions D5, D9). -/
def Obligations.IndexRegisterWrites : Prop :=
  ∀ (nnn : Addr) (x : Reg) (s : State),
    (∃ t, exec (.ldI nnn) s = .next t ∧ t.i.toNat = nnn.toNat ∧ t.pc = s.pc + 2#16 ∧ ChangesOnly s t [.i, .pc]) ∧
    (∃ t, exec (.addI x) s = .next t ∧ t.i.toNat = (s.i.toNat + (s.getV x).toNat) % 65536 ∧ t.pc = s.pc + 2#16 ∧
      ChangesOnly s t [.i, .pc]) ∧
    (∃ t, exec (.ldF x) s = .next t ∧ t.i.toNat = 5 * ((s.getV x).toNat % 16) ∧ t.pc = s.pc + 2#16 ∧
      ChangesOnly s t [.i, .pc])

/-- FX33: the three decimal digits at I, I + 1, I + 2, hundreds first, each address masked to 12 bits (R163). -/
def Obligations.BcdStoresThreeDigits : Prop :=
  ∀ (x : Reg) (s : State), Memory.wf s.mem = true → decode (formatXKK 0xF#4 x 0x33#8) = .ldB x ∧
    ∃ t, exec (.ldB x) s = .next t ∧
      (t.readMem (s.dataAddr 0)).toNat = (s.getV x).toNat / 100 ∧
      (t.readMem (s.dataAddr 1)).toNat = (s.getV x).toNat / 10 % 10 ∧
      (t.readMem (s.dataAddr 2)).toNat = (s.getV x).toNat % 10 ∧
      (∀ k, (s.dataAddr k).toNat = (s.i.toNat + k) % 4096) ∧
      t.pc = s.pc + 2#16 ∧ ChangesOnly s t [.mem (s.dataAddr 0), .mem (s.dataAddr 1), .mem (s.dataAddr 2), .pc]

/-- FX55: V0..Vx inclusive to the bytes from I on, each address masked; I is not changed (R164, the spec's own decision
D6; general knowledge G5). -/
def Obligations.StoreBlockCopiesRegisters : Prop :=
  ∀ (x : Reg) (s : State), Memory.wf s.mem = true →
    ∃ t, exec (.ldMem x) s = .next t ∧
      (∀ r : Reg, r.toNat ≤ x.toNat → t.readMem (s.dataAddr r.toNat) = s.getV r) ∧
      (∀ k, (s.dataAddr k).toNat = (s.i.toNat + k) % 4096) ∧ t.pc = s.pc + 2#16 ∧
      ChangesOnly s t (.pc :: (List.range (x.toNat + 1)).map (fun k => .mem (s.dataAddr k)))

/-- FX65: V0..Vx inclusive from the bytes from I on; the other registers, memory and I are not changed (R165, the spec's
own decision D6; general knowledge G5). -/
def Obligations.LoadBlockCopiesMemory : Prop :=
  ∀ (x : Reg) (s : State), ∃ t, exec (.ldXMem x) s = .next t ∧
    (∀ r : Reg, r.toNat ≤ x.toNat → t.getV r = s.readMem (A12 (s.i.toNat + r.toNat))) ∧ t.pc = s.pc + 2#16 ∧
    ChangesOnly s t (.pc :: (List.range (x.toNat + 1)).map (fun k => .v (BitVec.ofNat 4 k)))

/-- What FX55 stored, FX65 loads back, whatever the registers hold in between (R164, R165; the spec's own decision D6).
-/
def Obligations.LoadBlockUndoesStoreBlock : Prop :=
  ∀ (x r : Reg) (s t u w : State), Memory.wf s.mem = true → exec (.ldMem x) s = .next t → u.mem = t.mem → u.i = t.i →
    exec (.ldXMem x) u = .next w → r.toNat ≤ x.toNat → w.getV r = s.getV r

/-- After FX33 and after FX55 the next instruction is fetched from memory as just stored: each of its two bytes is the
stored byte where the store covers it, be it one of the two or both, else the byte that was there; and the next engine
step runs the word so made (R60, R281; the spec's own decision D24; the schedule and the launch flag are the
model's own, log 1, log 11). -/
def Obligations.StoredBytesAreFetchedNext : Prop :=
  ∀ (i : Instr) (x : Reg) (stored : List Byte) (s : State), Memory.wf s.mem = true →
    ((i = .ldB x ∧ stored = [BitVec.ofNat 8 ((s.getV x).toNat / 100), BitVec.ofNat 8 ((s.getV x).toNat / 10 % 10),
        BitVec.ofNat 8 ((s.getV x).toNat % 10)]) ∨
      (i = .ldMem x ∧ stored = (List.range (x.toNat + 1)).map fun k => s.getV (BitVec.ofNat 4 k))) →
    ∃ t hi lo, exec i s = .next t ∧ t.pc = s.pc + 2#16 ∧ t.fetch = wordOfBytes hi lo ∧
      HoldsAfterStore s stored (A12 (s.pc.toNat + 2)) hi ∧ HoldsAfterStore s stored (A12 (s.pc.toNat + 3)) lo ∧
      ∀ rest, s.fault = none → s.wait = .idle → EngineMoves s rest →
        step t = exec (decode (wordOfBytes hi lo)) { t with schedule := rest }

/-! ### Display (43_display.md) -/

/-- 00E0: every cell off, one Clear command, VF not written (R190; the command on an already clear screen is the spec's
own decision D14). -/
def Obligations.ClearTurnsEveryCellOff : Prop :=
  ∀ s : State, ∃ t, exec .cls s = .next t ∧ (∀ row < 32, ∀ col < 64, ¬ t.isOn row col) ∧ t.out = s.out ++ [.clear] ∧
    t.pc = s.pc + 2#16 ∧ ChangesOnly s t [.fb, .out, .pc]

/-- DXYN: a cell is turned over exactly when a 1 bit of the sprite falls on it; VF is 1 exactly when a cell went from on
to off, else 0; one Present command with the new screen (R191, R192, R194; the spec's own decisions D13, D14, D15,
general knowledge G2, G12). -/
def Obligations.DrawTurnsOverCoveredCells : Prop :=
  ∀ (x y : Reg) (n : Nybble) (s : State), ∃ t, exec (.drw x y n) s = .next t ∧
    (∀ row < 32, ∀ col < 64, (t.isOn row col ↔ ¬ (s.isOn row col ↔ SpriteCovers s x y n row col))) ∧
    ((∃ row < 32, ∃ col < 64, s.isOn row col ∧ ¬ t.isOn row col) → t.getV VF = 0x01#8) ∧
    ((∀ row < 32, ∀ col < 64, s.isOn row col → t.isOn row col) → t.getV VF = 0x00#8) ∧
    t.out = s.out ++ [.present t.fb] ∧ t.pc = s.pc + 2#16 ∧ ChangesOnly s t [.fb, .v VF, .out, .pc]

/-- The collision law: the same sprite drawn twice restores every cell, and the second draw reports VF = 1 exactly when
a 1 bit of the sprite falls on a cell that was off (R193). -/
def Obligations.DrawTwiceRestoresScreen : Prop :=
  ∀ (x y : Reg) (n : Nybble) (s : State), x ≠ VF → y ≠ VF →
    ∃ t u, exec (.drw x y n) s = .next t ∧ exec (.drw x y n) t = .next u ∧ u.fb = s.fb ∧
      (u.getV VF = 0x01#8 ↔ ∃ row < 32, ∃ col < 64, SpriteCovers s x y n row col ∧ ¬ s.isOn row col)

/-- The snapshot is the whole framebuffer after the draw, index `row * 64 + col` for each cell, and it is a copy: no
later step but a Reset changes an emitted command (R194). -/
def Obligations.SnapshotIsWholeFramebuffer : Prop :=
  (∀ (x y : Reg) (n : Nybble) (s : State), ∃ t snapshot, exec (.drw x y n) s = .next t ∧
      t.out = s.out ++ [.present snapshot] ∧
      ∀ row < 32, ∀ col < 64, (snapshot.bitAt (row * 64 + col) = true ↔ t.isOn row col)) ∧
    ∀ (s t : State), step s = .next t → (∀ rom rest, s.schedule ≠ .host (.reset rom) :: rest) →
      ∃ more, t.out = s.out ++ more

/-! ### Keys and timers (44_keys_timers.md) -/

/-- EX9E and EXA1 skip when key Vx is, or is not, down; a value above 0xF names no key (R210, R211; the spec's own
decision D17, general knowledge G5). -/
def Obligations.KeyTestsSkip : Prop :=
  ∀ (x : Reg) (s : State),
    (∃ t, exec (.skp x) s = .next t ∧
      ((∃ k : Key, k.toNat = (s.getV x).toNat ∧ s.keys.isDown k = true) → t.pc = s.pc + 4#16) ∧
      ((∀ k : Key, k.toNat = (s.getV x).toNat → s.keys.isDown k = false) → t.pc = s.pc + 2#16) ∧
      ChangesOnly s t [.pc]) ∧
    (∃ t, exec (.sknp x) s = .next t ∧
      ((∃ k : Key, k.toNat = (s.getV x).toNat ∧ s.keys.isDown k = true) → t.pc = s.pc + 2#16) ∧
      ((∀ k : Key, k.toNat = (s.getV x).toNat → s.keys.isDown k = false) → t.pc = s.pc + 4#16) ∧
      ChangesOnly s t [.pc])

/-- FX0A, first step: the slot is cleared, the wait is recorded, pc and the pressed set stay, the step is Blocked, even
if a key was released earlier (R213; the report is the model's reading, log 10; the encoding is general knowledge, G5).
-/
def Obligations.KeyWaitFirstStepBlocks : Prop :=
  ∀ (x : Reg) (s : State), s.fault = none → s.wait = .idle →
    ∃ t, exec (.ldK x) s = .next t ∧ t.keys.lastReleased = none ∧ t.wait = .waiting x ∧ t.report = .blocked ∧
      t.pc = s.pc ∧ ChangesOnly s t [.lastReleased, .wait]

/-- FX0A, a poll step, in place of fetch and decode: with an empty slot Blocked and nothing changes; with a key, the key
in the target, the slot taken, the wait over, pc + 2, Advance (R214; the report is the model's reading, log 10; the
schedule and the launch flag are the model's own, log 1, log 11). -/
def Obligations.KeyWaitPollStep : Prop :=
  ∀ (x : Reg) (s : State) (rest : List Turn), s.fault = none → s.wait = .waiting x → EngineMoves s rest →
    (s.keys.lastReleased = none →
      ∃ t, step s = .next t ∧ t.report = .blocked ∧ t.schedule = rest ∧ ChangesOnly s t [.schedule]) ∧
    (∀ k, s.keys.lastReleased = some k →
      ∃ t, step s = .next t ∧ (t.getV x).toNat = k.toNat ∧ t.keys.lastReleased = none ∧ t.wait = .idle ∧
        t.pc = s.pc + 2#16 ∧ t.report = .advance ∧ t.schedule = rest ∧
        ChangesOnly s t [.v x, .lastReleased, .wait, .pc, .schedule])

/-- Without a release the wait blocks, however many polls, ticks and presses come; only the timers and the pressed set
move (R214, R215; the schedule, the report and the launch flag are the model's, log 1, log 10, log 11). -/
def Obligations.KeyWaitBlocksWithoutRelease : Prop :=
  ∀ (x : Reg) (s : State) (turns rest : List Turn), s.launched = true → s.fault = none → s.wait = .waiting x →
    s.keys.lastReleased = none → s.schedule = turns ++ rest → (∀ u ∈ turns, u.quiet = true) →
    ∃ t, runSteps turns.length s = .next t ∧ t.wait = .waiting x ∧ t.keys.lastReleased = none ∧
      t.report = .blocked ∧ t.schedule = rest ∧ ChangesOnly s t [.dt, .st, .pressed, .schedule]

/-- The next poll delivers the last release, whatever events came before it (R215; [derived] in the spec; the schedule,
the report and the launch flag are the model's, log 1, log 10, log 11). -/
def Obligations.KeyWaitDeliversLastRelease : Prop :=
  ∀ (x : Reg) (k : Key) (s : State) (before after : List HostEvent) (rest : List Turn),
    s.launched = true → s.fault = none → s.wait = .waiting x →
    s.schedule = (before ++ .release k :: after).map Turn.host ++ .engine :: rest →
    (∀ rom, HostEvent.reset rom ∉ before ++ after) → (∀ j, HostEvent.release j ∉ after) →
    ∃ t, runSteps (before.length + after.length + 2) s = .next t ∧ (t.getV x).toNat = k.toNat ∧ t.wait = .idle ∧
      t.keys.lastReleased = none ∧ t.pc = s.pc + 2#16 ∧ t.report = .advance ∧ t.schedule = rest ∧
      ChangesOnly s t [.v x, .pc, .wait, .lastReleased, .pressed, .dt, .st, .schedule]

/-- FX07, FX15, FX18 move between Vx and the timers (R216 to R218; general knowledge G5, G11). -/
def Obligations.TimerMoves : Prop :=
  ∀ (x : Reg) (s : State),
    (∃ t, exec (.ldXDT x) s = .next t ∧ t.getV x = s.dt ∧ t.pc = s.pc + 2#16 ∧ ChangesOnly s t [.v x, .pc]) ∧
    (∃ t, exec (.ldDT x) s = .next t ∧ t.dt = s.getV x ∧ t.pc = s.pc + 2#16 ∧ ChangesOnly s t [.dt, .pc]) ∧
    (∃ t, exec (.ldST x) s = .next t ∧ t.st = s.getV x ∧ t.pc = s.pc + 2#16 ∧ ChangesOnly s t [.st, .pc])

/-! ### Whole-machine rules -/

/-- DT is written by FX15 alone and read by FX07 alone; ST is written by FX18 alone and read by no instruction: an
instruction's whole effect is the same whatever value ST holds (R27). -/
def Obligations.TimersReadAndWrittenOnlyByTheirMoves : Prop :=
  ∀ (i : Instr) (s t : State) (b : Byte), exec i s = .next t →
    (t.dt ≠ s.dt → ∃ x, i = .ldDT x) ∧ (t.st ≠ s.st → ∃ x, i = .ldST x) ∧
    ((∃ x, i = .ldST x) → exec i (s.setST b) = .next t) ∧
    ((∀ x, i ≠ .ldST x) → exec i (s.setST b) = .next (t.setST b)) ∧
    ((∃ x, i = .ldDT x) → exec i (s.setDT b) = .next t) ∧
    ((∀ x, i ≠ .ldDT x ∧ i ≠ .ldXDT x) → exec i (s.setDT b) = .next (t.setDT b))

/-- The program-counter discipline: each instruction's next pc, no more than R25 allows (R25, R111; modulo 2^16 is the
spec's own decision D4). -/
def Obligations.ProgramCounterDiscipline : Prop :=
  ∀ (i : Instr) (s t : State), exec i s = .next t → s.fault = none → t.fault = none →
    (t.pc = s.pc + 2#16 ∧ (∀ nnn, i ≠ .jp nnn ∧ i ≠ .call nnn ∧ i ≠ .jpV0 nnn) ∧ i ≠ .ret ∧ ∀ x, i ≠ .ldK x) ∨
    (t.pc = s.pc + 4#16 ∧ ((∃ x kk, i = .seImm x kk ∨ i = .sneImm x kk) ∨ (∃ x y, i = .seReg x y ∨ i = .sneReg x y) ∨
      ∃ x, i = .skp x ∨ i = .sknp x)) ∨
    (∃ nnn, (i = .jp nnn ∨ i = .call nnn) ∧ t.pc = zextAddr nnn) ∨
    (∃ nnn, i = .jpV0 nnn ∧ t.pc = zextAddr nnn + zextByte (s.getV 0#4)) ∨
    (i = .ret ∧ s.stack = t.stack ++ [t.pc]) ∨ (∃ x, i = .ldK x ∧ t.pc = s.pc ∧ t.wait = .waiting x)

/-- Only CALL and RET touch the stack, by one entry at the newest end (R28). -/
def Obligations.StackTouchedOnlyByCallAndReturn : Prop :=
  ∀ (i : Instr) (s t : State), exec i s = .next t → t.stack ≠ s.stack →
    (∃ nnn, i = .call nnn ∧ t.stack = s.stack ++ [s.pc + 2#16]) ∨ (i = .ret ∧ ∃ a, s.stack = t.stack ++ [a])

/-- Only 00E0 and DXYN write the framebuffer, and exactly they emit one command: Clear, or Present of the new screen
(R29, R252; the spec's own decision D14). -/
def Obligations.ScreenWrittenOnlyByClearAndDraw : Prop :=
  ∀ (i : Instr) (s t : State), exec i s = .next t →
    (i = .cls ∧ t.fb = Framebuffer.allOff ∧ t.out = s.out ++ [.clear]) ∨
    ((∃ x y n, i = .drw x y n) ∧ t.out = s.out ++ [.present t.fb]) ∨
    (i ≠ .cls ∧ (∀ x y n, i ≠ .drw x y n) ∧ t.fb = s.fb ∧ t.out = s.out)

/-- Only FX33 and FX55 write memory, and only at the bytes of their access (R52, R53, R57). -/
def Obligations.MemoryWrittenOnlyByStores : Prop :=
  ∀ (i : Instr) (s t : State) (a : Addr), Memory.wf s.mem = true → exec i s = .next t → t.readMem a ≠ s.readMem a →
    (∃ x k, i = .ldB x ∧ k < 3 ∧ a = A12 (s.i.toNat + k)) ∨
    (∃ x k, i = .ldMem x ∧ k ≤ x.toNat ∧ a = A12 (s.i.toNat + k))

/-- A general register changes only as the destination of the instruction, or, if it is VF, by a flag-producing one
(R21, R22; the spec's own decision D7). -/
def Obligations.RegistersWrittenOnlyAsDestinations : Prop :=
  ∀ (i : Instr) (s t : State) (r : Reg), exec i s = .next t → t.getV r ≠ s.getV r →
    (∃ kk, i = .ldImm r kk ∨ i = .addImm r kk ∨ i = .rnd r kk) ∨
    (∃ y, i = .ldReg r y ∨ i = .or r y ∨ i = .and r y ∨ i = .xor r y) ∨
    (∃ x y, (r = x ∨ r = VF) ∧ (i = .addReg x y ∨ i = .sub x y ∨ i = .shr x y ∨ i = .subn x y ∨ i = .shl x y)) ∨
    (r = VF ∧ ∃ x y n, i = .drw x y n) ∨ i = .ldXDT r ∨ ∃ x, r.toNat ≤ x.toNat ∧ i = .ldXMem x

/-- The engine writes the Input State only at the slot, by FX0A's first step, which clears it, and by a poll, which
takes it; it never writes the pressed set (R32, C3). -/
def Obligations.EngineWritesOnlyTheReleasedSlot : Prop :=
  (∀ (i : Instr) (s t : State), exec i s = .next t → t.keys.pressed = s.keys.pressed ∧
    (t.keys.lastReleased ≠ s.keys.lastReleased → (∃ x, i = .ldK x) ∧ t.keys.lastReleased = none)) ∧
  (∀ (x : Reg) (s : State), ∃ t, exec (.ldK x) s = .next t ∧ t.keys.lastReleased = none) ∧
  ∀ (s : State) (x : Reg), (s.pollKey x).keys.pressed = s.keys.pressed ∧ (s.pollKey x).keys.lastReleased = none

/-- Faults come from RET on an empty stack and CALL on a full one, and from no other instruction; nothing but the record
changes (R240 to R243, R245; the overflow is the spec's own decision D12, log 7). -/
def Obligations.OnlyReturnAndCallFault : Prop :=
  ∀ (i : Instr) (s t : State), exec i s = .next t → t.fault ≠ s.fault →
    ((i = .ret ∧ s.stack = [] ∧ t.fault = some ⟨.stackUnderflow, s.pc, encode i⟩) ∨
     (∃ nnn, i = .call nnn ∧ 16 ≤ s.stack.length ∧ t.fault = some ⟨.stackOverflow, s.pc, encode i⟩)) ∧
    ChangesOnly s t [.fault]

/-- The engine only appends to the command sequence: over a step that is no Reset at most one command is added (R35,
R252; the spec's own decision D14). -/
def Obligations.OutputOnlyGrows : Prop :=
  ∀ (s t : State), step s = .next t → (∀ rom rest, s.schedule ≠ .host (.reset rom) :: rest) →
    t.out = s.out ∨ ∃ c, t.out = s.out ++ [c]

/-- From a parked state every step that is no Reset answers a parked state in which at most DT, ST and the Input State
have changed, and an engine step changes nothing but the turns left; so a run without a Reset stays parked and safe for
ever, and one to which no host turn comes leaves the whole state as it is (R275; [derived] in the spec; the parked state
is the spec's own decision D32; the schedule and the launch flag are the model's own, log 1, log 11). -/
def Obligations.ParkedMachineStaysParked : Prop :=
  ∀ s : State, Parked s →
    ((∀ rom rest, s.schedule ≠ .host (.reset rom) :: rest) →
      ∃ t, step s = .next t ∧ Parked t ∧ ChangesOnly s t [.dt, .st, .pressed, .lastReleased, .schedule]) ∧
    (∀ rest, EngineMoves s rest → step s = .next { s with schedule := rest }) ∧
    ((∀ rom, Turn.host (.reset rom) ∉ s.schedule) → ∀ n, SafeRun n s ∧
      ∃ t, runSteps n s = .next t ∧ Parked t ∧ ChangesOnly s t [.dt, .st, .pressed, .lastReleased, .schedule]) ∧
    (s.schedule = [] → ∀ n, runSteps n s = .next s)

/-- Without a ROM there is no run: before the first Reset the engine's turn is refused, every other turn of the host
leaves the engine unlaunched with at most the timers and the keys moved, a run that meets no Reset never runs an
instruction, and Reset(rom) launches the engine, at the ROM's first word (R272, R274; U20 calls for a refusal; the flag
and the form of the refusal are the model's reading, log 11; the schedule is the model's own, log 1). -/
def Obligations.NoRunBeforeARomIsLoaded : Prop :=
  step State.reset = .refused .notLaunched ∧
  ∀ s : State, s.launched = false →
    (∀ rest, EngineTurn s rest → step s = .refused .notLaunched) ∧
    (∀ e rest, s.schedule = .host e :: rest → (∀ rom, e ≠ .reset rom) →
      ∃ t, step s = .next t ∧ t.launched = false ∧ ChangesOnly s t [.dt, .st, .pressed, .lastReleased, .schedule]) ∧
    (∀ n t, (∀ rom, Turn.host (.reset rom) ∉ s.schedule) → runSteps n s = .next t →
      t.launched = false ∧ ChangesOnly s t [.dt, .st, .pressed, .lastReleased, .schedule]) ∧
    ∀ rom rest, s.schedule = .host (.reset rom) :: rest →
      ∃ t, step s = .next t ∧ t.launched = true ∧ t.pc = 0x200#16 ∧ t.fault = none ∧ t.wait = .idle ∧
        t.mem = romMemory rom ∧ t.schedule = rest

/-! ### Invariants -/

/-- Every step of the machine, engine's or host's, keeps the invariant (the stack's bound is the spec's own decision D12, log 7;
the launch flag is the model's own, log 11). -/
def Obligations.EveryStepKeepsInvariant : Prop :=
  ∀ (s t : State), Inv s → step s = .next t → Inv t

/-- Every step keeps the screen equal to what the last Display Command showed. -/
def Obligations.EveryStepKeepsScreenMatchingOutput : Prop :=
  ∀ (s t : State), ScreenMatchesOutput s → step s = .next t → ScreenMatchesOutput t

/-- The reset state, and the state after any Reset event, meet both invariants. -/
def Obligations.ResetMeetsInvariants : Prop :=
  Inv State.reset ∧ ScreenMatchesOutput State.reset ∧
    ∀ (s : State) (rom : List Byte), Inv (s.hostReset rom) ∧ ScreenMatchesOutput (s.hostReset rom)
end

