-- ==== Sys2Proof/Laws/Decode.lean ====
section
/-! SUPPORT. The value of every field and format as a number (30_encoding.md R72, R76), the fields of a word built from a
format, and a word rebuilt from its fields. -/

namespace Sys2Proof

/-! ### Fields and formats as numbers -/

theorem toNat_fieldHi (w : Word) : (fieldHi w).toNat = w.toNat / 4096 := by
  have := w.isLt
  simp [fieldHi, BitVec.extractLsb'_toNat, Nat.shiftRight_eq_div_pow]; omega

theorem toNat_fieldX (w : Word) : (fieldX w).toNat = w.toNat / 256 % 16 := by
  simp [fieldX, BitVec.extractLsb'_toNat, Nat.shiftRight_eq_div_pow]

theorem toNat_fieldY (w : Word) : (fieldY w).toNat = w.toNat / 16 % 16 := by
  simp [fieldY, BitVec.extractLsb'_toNat, Nat.shiftRight_eq_div_pow]

theorem toNat_fieldN (w : Word) : (fieldN w).toNat = w.toNat % 16 := by
  simp [fieldN, BitVec.extractLsb'_toNat]

theorem toNat_fieldKK (w : Word) : (fieldKK w).toNat = w.toNat % 256 := by
  simp [fieldKK, BitVec.extractLsb'_toNat]

theorem toNat_fieldNNN (w : Word) : (fieldNNN w).toNat = w.toNat % 4096 := by
  simp [fieldNNN, BitVec.extractLsb'_toNat]

theorem toNat_highByte (w : Word) : (highByte w).toNat = w.toNat / 256 := by
  have := w.isLt
  simp [highByte, BitVec.extractLsb'_toNat, Nat.shiftRight_eq_div_pow]; omega

theorem toNat_lowByte (w : Word) : (lowByte w).toNat = w.toNat % 256 := by
  simp [lowByte, BitVec.extractLsb'_toNat]

/-- Concatenation as arithmetic: the left part stands above the right part's bits (R6). -/
theorem toNat_append_add {m n : Nat} (a : BitVec m) (b : BitVec n) :
    (a ++ b).toNat = a.toNat * 2 ^ n + b.toNat := by
  rw [BitVec.toNat_append, ← Nat.shiftLeft_add_eq_or_of_lt b.isLt, Nat.shiftLeft_eq]

theorem toNat_formatA (hi : Nybble) (nnn : Addr) : (formatA hi nnn).toNat = hi.toNat * 4096 + nnn.toNat :=
  toNat_append_add hi nnn

theorem toNat_formatXKK (hi : Nybble) (x : Reg) (kk : Byte) :
    (formatXKK hi x kk).toNat = hi.toNat * 4096 + x.toNat * 256 + kk.toNat := by
  have h := toNat_append_add (hi ++ x) kk
  rw [toNat_append_add hi x] at h
  exact h.trans (by omega)

theorem toNat_formatXYN (hi : Nybble) (x y : Reg) (n : Nybble) :
    (formatXYN hi x y n).toNat = hi.toNat * 4096 + x.toNat * 256 + y.toNat * 16 + n.toNat := by
  have h := toNat_append_add (hi ++ x ++ y) n
  rw [toNat_append_add (hi ++ x) y, toNat_append_add hi x] at h
  exact h.trans (by omega)

theorem toNat_wordOfBytes (hi lo : Byte) : (wordOfBytes hi lo).toNat = hi.toNat * 256 + lo.toNat :=
  toNat_append_add hi lo

/-! ### The fields of a built word -/

section
variable (hi n : Nybble) (x y : Reg) (kk : Byte) (nnn : Addr)

@[simp] theorem fieldHi_formatA : fieldHi (formatA hi nnn) = hi := by
  apply BitVec.eq_of_toNat_eq; rw [toNat_fieldHi, toNat_formatA]; omega
@[simp] theorem fieldNNN_formatA : fieldNNN (formatA hi nnn) = nnn := by
  apply BitVec.eq_of_toNat_eq; rw [toNat_fieldNNN, toNat_formatA]; omega
@[simp] theorem fieldHi_formatXKK : fieldHi (formatXKK hi x kk) = hi := by
  apply BitVec.eq_of_toNat_eq; rw [toNat_fieldHi, toNat_formatXKK]; omega
@[simp] theorem fieldX_formatXKK : fieldX (formatXKK hi x kk) = x := by
  apply BitVec.eq_of_toNat_eq; rw [toNat_fieldX, toNat_formatXKK]; omega
@[simp] theorem fieldKK_formatXKK : fieldKK (formatXKK hi x kk) = kk := by
  apply BitVec.eq_of_toNat_eq; rw [toNat_fieldKK, toNat_formatXKK]; omega
@[simp] theorem fieldHi_formatXYN : fieldHi (formatXYN hi x y n) = hi := by
  apply BitVec.eq_of_toNat_eq; rw [toNat_fieldHi, toNat_formatXYN]; omega
@[simp] theorem fieldX_formatXYN : fieldX (formatXYN hi x y n) = x := by
  apply BitVec.eq_of_toNat_eq; rw [toNat_fieldX, toNat_formatXYN]; omega
@[simp] theorem fieldY_formatXYN : fieldY (formatXYN hi x y n) = y := by
  apply BitVec.eq_of_toNat_eq; rw [toNat_fieldY, toNat_formatXYN]; omega
@[simp] theorem fieldN_formatXYN : fieldN (formatXYN hi x y n) = n := by
  apply BitVec.eq_of_toNat_eq; rw [toNat_fieldN, toNat_formatXYN]; omega

end

/-! ### A word rebuilt from its fields -/

@[simp] theorem formatA_fields (w : Word) : formatA (fieldHi w) (fieldNNN w) = w := by
  apply BitVec.eq_of_toNat_eq; rw [toNat_formatA, toNat_fieldHi, toNat_fieldNNN]; omega
@[simp] theorem formatXKK_fields (w : Word) : formatXKK (fieldHi w) (fieldX w) (fieldKK w) = w := by
  apply BitVec.eq_of_toNat_eq; rw [toNat_formatXKK, toNat_fieldHi, toNat_fieldX, toNat_fieldKK]; omega
@[simp] theorem formatXYN_fields (w : Word) : formatXYN (fieldHi w) (fieldX w) (fieldY w) (fieldN w) = w := by
  apply BitVec.eq_of_toNat_eq; rw [toNat_formatXYN, toNat_fieldHi, toNat_fieldX, toNat_fieldY, toNat_fieldN]; omega
@[simp] theorem wordOfBytes_bytes (w : Word) : wordOfBytes (highByte w) (lowByte w) = w := by
  apply BitVec.eq_of_toNat_eq; rw [toNat_wordOfBytes, toNat_highByte, toNat_lowByte]; omega

/-- The bytes of a word, read back, give its instruction and the bytes after it. -/
theorem decodeBytes_bytes (w : Word) (rest : List Byte) :
    decodeBytes (highByte w :: lowByte w :: rest) = .ok (decode w, rest) := by simp [decodeBytes]

/-! ### A word under the opcode table's masks -/

theorem and_ones4 : ∀ a : Nybble, a &&& 0xF#4 = a := by decide
theorem and_ones8 : ∀ a : Byte, a &&& 0xFF#8 = a := by decide

theorem formatA_maskF000 (hi : Nybble) (nnn : Addr) : formatA hi nnn &&& 0xF000#16 = formatA hi 0 :=
  (BitVec.and_append (x₁ := hi) (x₂ := 0xF#4) (y₁ := nnn) (y₂ := 0x000#12)).trans
    (by rw [and_ones4, BitVec.and_zero]; rfl)

theorem formatXYN_maskF00F (hi n : Nybble) (x y : Reg) : formatXYN hi x y n &&& 0xF00F#16 = formatXYN hi 0 0 n :=
  (BitVec.and_append (x₁ := hi ++ x ++ y) (x₂ := 0xF#4 ++ 0x0#4 ++ 0x0#4) (y₁ := n) (y₂ := 0xF#4)).trans
    (by rw [BitVec.and_append, BitVec.and_append, and_ones4, and_ones4, BitVec.and_zero, BitVec.and_zero]; rfl)

theorem formatXYN_maskF000 (hi n : Nybble) (x y : Reg) : formatXYN hi x y n &&& 0xF000#16 = formatXYN hi 0 0 0 :=
  (BitVec.and_append (x₁ := hi ++ x ++ y) (x₂ := 0xF#4 ++ 0x0#4 ++ 0x0#4) (y₁ := n) (y₂ := 0x0#4)).trans
    (by rw [BitVec.and_append, BitVec.and_append, and_ones4, BitVec.and_zero, BitVec.and_zero, BitVec.and_zero]; rfl)

theorem formatXKK_maskF0FF (hi : Nybble) (x : Reg) (kk : Byte) : formatXKK hi x kk &&& 0xF0FF#16 = formatXKK hi 0 kk :=
  (BitVec.and_append (x₁ := hi ++ x) (x₂ := 0xF#4 ++ 0x0#4) (y₁ := kk) (y₂ := 0xFF#8)).trans
    (by rw [BitVec.and_append, and_ones4, and_ones8, BitVec.and_zero]; rfl)

theorem formatXKK_maskF000 (hi : Nybble) (x : Reg) (kk : Byte) : formatXKK hi x kk &&& 0xF000#16 = formatXKK hi 0 0 :=
  (BitVec.and_append (x₁ := hi ++ x) (x₂ := 0xF#4 ++ 0x0#4) (y₁ := kk) (y₂ := 0x00#8)).trans
    (by rw [BitVec.and_append, and_ones4, BitVec.and_zero, BitVec.and_zero]; rfl)

end Sys2Proof
end

