-- ==== Sys2Proof/Laws/Memory.lean ====
section
/-! SUPPORT. The laws of the byte memory (20_memory.md R57, R58): a read after a write, and the canonical form, which every
memory operation keeps. -/

namespace Sys2Proof.Machine

theorem A12_toNat (n : Nat) : (A12 n).toNat = n % 4096 := by simp [A12]

theorem A12_eq_iff (a b : Nat) : A12 a = A12 b ↔ a % 4096 = b % 4096 := by
  rw [← BitVec.toNat_inj, A12_toNat, A12_toNat]

@[simp] theorem A12_toNat_self (a : Addr) : A12 a.toNat = a := by
  apply BitVec.eq_of_toNat_eq; rw [A12_toNat]; exact Nat.mod_eq_of_lt a.isLt

/-! ### The canonical form, entry by entry -/

theorem Memory.wfFrom_cons (lo k : Nat) (b : Byte) (m : Memory) :
    Memory.wfFrom lo ((k, b) :: m) = true ↔
      lo ≤ k ∧ k < 4096 ∧ b ≠ Memory.unlisted k ∧ Memory.wfFrom (k + 1) m = true := by
  rw [Memory.wfFrom, Config.memSize]
  simp only [Bool.and_eq_true, decide_eq_true_eq, bne_iff_ne, and_assoc]

theorem Memory.wfFrom_mono {lo lo' : Nat} {m : Memory} (h : Memory.wfFrom lo m = true) (hle : lo' ≤ lo) :
    Memory.wfFrom lo' m = true := by
  cases m with
  | nil => rfl
  | cons p m =>
    obtain ⟨k, b⟩ := p
    rw [Memory.wfFrom_cons] at h ⊢
    exact ⟨by omega, h.2⟩

/-- Below the lowest listed address everything reads as unlisted. -/
theorem Memory.readAt_below {lo a : Nat} {m : Memory} (h : Memory.wfFrom lo m = true) (ha : a < lo) :
    Memory.readAt m a = Memory.unlisted a := by
  induction m generalizing lo with
  | nil => rfl
  | cons p m ih =>
    obtain ⟨k, b⟩ := p
    rw [Memory.wfFrom_cons] at h
    rw [Memory.readAt, if_neg (by omega)]
    exact ih h.2.2.2 (by omega)

/-! ### Reading after a change -/

theorem Memory.readAt_cons (k : Nat) (b : Byte) (m : Memory) (c : Nat) :
    Memory.readAt ((k, b) :: m) c = if k = c then b else Memory.readAt m c := rfl

theorem Memory.readAt_insertAt (m : Memory) (a c : Nat) (v : Byte) :
    Memory.readAt (Memory.insertAt m a v) c = if c = a then v else Memory.readAt m c := by
  induction m with
  | nil =>
    rw [Memory.insertAt, Memory.readAt_cons]
    split_ifs <;> first | rfl | omega
  | cons p m ih =>
    obtain ⟨k, b⟩ := p
    rw [Memory.insertAt]
    split_ifs with h1 h2 <;> simp only [Memory.readAt_cons, ih] <;> split_ifs <;> first | rfl | omega

theorem Memory.readAt_eraseAt {lo : Nat} {m : Memory} (hwf : Memory.wfFrom lo m = true) (a c : Nat) :
    Memory.readAt (Memory.eraseAt m a) c = if c = a then Memory.unlisted c else Memory.readAt m c := by
  induction m generalizing lo with
  | nil => simp [Memory.eraseAt, Memory.readAt]
  | cons p m ih =>
    obtain ⟨k, b⟩ := p
    have hw := (Memory.wfFrom_cons ..).1 hwf
    by_cases hk : k = a
    · subst hk
      by_cases hc : c = k
      · subst hc
        simp [Memory.eraseAt, Memory.readAt_below hw.2.2.2 (Nat.lt_succ_self c)]
      · simp [Memory.eraseAt, Memory.readAt, hc, Ne.symm hc]
    · by_cases hc : k = c
      · subst hc
        simp [Memory.eraseAt, Memory.readAt, hk]
      · simp [Memory.eraseAt, Memory.readAt, hk, hc, ih hw.2.2.2]

/-- Read after write: the written byte at the written address, and at every other address what was there (R57). -/
theorem Memory.read_write {m : Memory} (hwf : Memory.wf m = true) (a c : Addr) (v : Byte) :
    Memory.read (Memory.write m a v) c = if c = a then v else Memory.read m c := by
  unfold Memory.read Memory.write
  by_cases hc : c = a
  · subst hc
    by_cases hv : v = Memory.unlisted c.toNat <;>
      simp [hv, Memory.readAt_insertAt, Memory.readAt_eraseAt hwf]
  · have hn : ¬ c.toNat = a.toNat := fun h => hc (BitVec.eq_of_toNat_eq h)
    split <;> simp [hn, Memory.readAt_insertAt, Memory.readAt_eraseAt hwf]

/-! ### Every operation keeps the canonical form -/

theorem Memory.wfFrom_insertAt {lo : Nat} {m : Memory} (hwf : Memory.wfFrom lo m = true) {a : Nat} {v : Byte}
    (hlo : lo ≤ a) (ha : a < 4096) (hv : v ≠ Memory.unlisted a) :
    Memory.wfFrom lo (Memory.insertAt m a v) = true := by
  induction m generalizing lo with
  | nil => exact (Memory.wfFrom_cons ..).2 ⟨hlo, ha, hv, rfl⟩
  | cons p m ih =>
    obtain ⟨k, b⟩ := p
    have hw := (Memory.wfFrom_cons ..).1 hwf
    by_cases h1 : a < k
    · simp only [Memory.insertAt, if_pos h1, Memory.wfFrom_cons]
      exact ⟨hlo, ha, hv, h1, hw.2⟩
    · by_cases h2 : a = k
      · subst h2
        simp only [Memory.insertAt, if_neg h1, Memory.wfFrom_cons, if_true]
        exact ⟨hlo, ha, hv, hw.2.2.2⟩
      · simp only [Memory.insertAt, if_neg h1, if_neg h2, Memory.wfFrom_cons]
        exact ⟨hw.1, hw.2.1, hw.2.2.1, ih hw.2.2.2 (by omega)⟩

theorem Memory.wfFrom_eraseAt {lo : Nat} {m : Memory} (hwf : Memory.wfFrom lo m = true) (a : Nat) :
    Memory.wfFrom lo (Memory.eraseAt m a) = true := by
  induction m generalizing lo with
  | nil => rfl
  | cons p m ih =>
    obtain ⟨k, b⟩ := p
    have hw := (Memory.wfFrom_cons ..).1 hwf
    by_cases h : k = a
    · simp only [Memory.eraseAt, if_pos h]
      exact Memory.wfFrom_mono hw.2.2.2 (by omega)
    · simp only [Memory.eraseAt, if_neg h, Memory.wfFrom_cons]
      exact ⟨hw.1, hw.2.1, hw.2.2.1, ih hw.2.2.2⟩

/-- A write keeps the canonical form. -/
theorem Memory.wf_write {m : Memory} (hwf : Memory.wf m = true) (a : Addr) (v : Byte) :
    Memory.wf (Memory.write m a v) = true := by
  unfold Memory.write
  split
  · exact Memory.wfFrom_eraseAt hwf _
  · exact Memory.wfFrom_insertAt hwf (Nat.zero_le _) a.isLt ‹_›

/-- A load keeps the canonical form. -/
theorem Memory.wf_load (bytes : List Byte) :
    ∀ {m : Memory} (_ : Memory.wf m = true) (a : Nat), Memory.wf (Memory.load m a bytes) = true := by
  induction bytes with
  | nil => exact fun h _ => h
  | cons b bytes ih => exact fun h _ => ih (Memory.wf_write h _ _) _

/-- The memory a ROM image gives is canonical. -/
theorem Memory.wf_romMemory (rom : List Byte) : Memory.wf (romMemory rom) = true :=
  Memory.wf_load _ rfl _

/-- Reset memory is canonical. -/
theorem Memory.wf_reset : Memory.wf State.reset.mem = true := rfl

/-- What a load leaves at an address: the loaded byte inside the loaded range, else what was there. The range must not wrap
onto itself. -/
theorem Memory.read_load (bytes : List Byte) :
    ∀ {m : Memory} (_ : Memory.wf m = true) (a : Nat) (_ : a + bytes.length ≤ 4096) (c : Addr),
      Memory.read (Memory.load m a bytes) c =
        if h : a ≤ c.toNat ∧ c.toNat - a < bytes.length then bytes[c.toNat - a]'h.2 else Memory.read m c := by
  induction bytes with
  | nil => intro m _ a _ c; simp [Memory.load]
  | cons b bytes ih =>
    intro m hm a ha c
    rw [List.length_cons] at ha
    rw [Memory.load, ih (Memory.wf_write hm _ _) (a + 1) (by omega) c, Memory.read_write hm]
    have hA : c = A12 a ↔ c.toNat = a := by
      rw [← BitVec.toNat_inj, A12_toNat, Nat.mod_eq_of_lt (by omega)]
    by_cases h : a + 1 ≤ c.toNat ∧ c.toNat - (a + 1) < bytes.length
    · have h' : a ≤ c.toNat ∧ c.toNat - a < (b :: bytes).length := by simp; omega
      rw [dif_pos h, dif_pos h']
      have e : c.toNat - a = c.toNat - (a + 1) + 1 := by omega
      simp [e]
    · rw [dif_neg h]
      by_cases hc : c.toNat = a
      · rw [if_pos (hA.2 hc), dif_pos (by simp; omega)]
        simp [hc]
      · rw [if_neg (fun e => hc (hA.1 e)), dif_neg (by simp; omega)]

end Sys2Proof.Machine
end

