-- ==== Sys2Proof/Laws/State.lean ====
section
/-! SUPPORT. One lemma for each field and each accessor of State under each named update, so that no later proof unfolds a
record update. -/

namespace Sys2Proof.Machine

variable (s : State)

/-! ### writeMem -/

@[simp] theorem State.writeMem_v (a : Addr) (b : Byte) : (s.writeMem a b).v = s.v := rfl
@[simp] theorem State.writeMem_i (a : Addr) (b : Byte) : (s.writeMem a b).i = s.i := rfl
@[simp] theorem State.writeMem_pc (a : Addr) (b : Byte) : (s.writeMem a b).pc = s.pc := rfl
@[simp] theorem State.writeMem_dt (a : Addr) (b : Byte) : (s.writeMem a b).dt = s.dt := rfl
@[simp] theorem State.writeMem_st (a : Addr) (b : Byte) : (s.writeMem a b).st = s.st := rfl
@[simp] theorem State.writeMem_stack (a : Addr) (b : Byte) : (s.writeMem a b).stack = s.stack := rfl
@[simp] theorem State.writeMem_mem (a : Addr) (b : Byte) : (s.writeMem a b).mem = Memory.write s.mem a b := rfl
@[simp] theorem State.writeMem_fb (a : Addr) (b : Byte) : (s.writeMem a b).fb = s.fb := rfl
@[simp] theorem State.writeMem_wait (a : Addr) (b : Byte) : (s.writeMem a b).wait = s.wait := rfl
@[simp] theorem State.writeMem_keys (a : Addr) (b : Byte) : (s.writeMem a b).keys = s.keys := rfl
@[simp] theorem State.writeMem_fault (a : Addr) (b : Byte) : (s.writeMem a b).fault = s.fault := rfl
@[simp] theorem State.writeMem_out (a : Addr) (b : Byte) : (s.writeMem a b).out = s.out := rfl
@[simp] theorem State.writeMem_draws (a : Addr) (b : Byte) : (s.writeMem a b).draws = s.draws := rfl
@[simp] theorem State.writeMem_schedule (a : Addr) (b : Byte) : (s.writeMem a b).schedule = s.schedule := rfl
@[simp] theorem State.writeMem_launched (a : Addr) (b : Byte) : (s.writeMem a b).launched = s.launched := rfl
@[simp] theorem State.writeMem_getV (a : Addr) (b : Byte) (r : Reg) : (s.writeMem a b).getV r = s.getV r := rfl
@[simp] theorem State.writeMem_dataAddr (a : Addr) (b : Byte) (n : Nat) : (s.writeMem a b).dataAddr n = s.dataAddr n := rfl
@[simp] theorem State.writeMem_report (a : Addr) (b : Byte) : (s.writeMem a b).report = s.report := rfl
@[simp] theorem State.writeMem_drawnByte (a : Addr) (b : Byte) : (s.writeMem a b).drawnByte = s.drawnByte := rfl
@[simp] theorem State.writeMem_keyNamedDown (a : Addr) (b : Byte) (q : Byte) : (s.writeMem a b).keyNamedDown q = s.keyNamedDown q := rfl

/-! ### setV -/

@[simp] theorem State.setV_v (x : Reg) (b : Byte) : (s.setV x b).v = s.v.set x.toNat b x.isLt := rfl
@[simp] theorem State.setV_i (x : Reg) (b : Byte) : (s.setV x b).i = s.i := rfl
@[simp] theorem State.setV_pc (x : Reg) (b : Byte) : (s.setV x b).pc = s.pc := rfl
@[simp] theorem State.setV_dt (x : Reg) (b : Byte) : (s.setV x b).dt = s.dt := rfl
@[simp] theorem State.setV_st (x : Reg) (b : Byte) : (s.setV x b).st = s.st := rfl
@[simp] theorem State.setV_stack (x : Reg) (b : Byte) : (s.setV x b).stack = s.stack := rfl
@[simp] theorem State.setV_mem (x : Reg) (b : Byte) : (s.setV x b).mem = s.mem := rfl
@[simp] theorem State.setV_fb (x : Reg) (b : Byte) : (s.setV x b).fb = s.fb := rfl
@[simp] theorem State.setV_wait (x : Reg) (b : Byte) : (s.setV x b).wait = s.wait := rfl
@[simp] theorem State.setV_keys (x : Reg) (b : Byte) : (s.setV x b).keys = s.keys := rfl
@[simp] theorem State.setV_fault (x : Reg) (b : Byte) : (s.setV x b).fault = s.fault := rfl
@[simp] theorem State.setV_out (x : Reg) (b : Byte) : (s.setV x b).out = s.out := rfl
@[simp] theorem State.setV_draws (x : Reg) (b : Byte) : (s.setV x b).draws = s.draws := rfl
@[simp] theorem State.setV_schedule (x : Reg) (b : Byte) : (s.setV x b).schedule = s.schedule := rfl
@[simp] theorem State.setV_launched (x : Reg) (b : Byte) : (s.setV x b).launched = s.launched := rfl
@[simp] theorem State.setV_readMem (x : Reg) (b : Byte) (p : Addr) : (s.setV x b).readMem p = s.readMem p := rfl
@[simp] theorem State.setV_dataAddr (x : Reg) (b : Byte) (n : Nat) : (s.setV x b).dataAddr n = s.dataAddr n := rfl
@[simp] theorem State.setV_fetch (x : Reg) (b : Byte) : (s.setV x b).fetch = s.fetch := rfl
@[simp] theorem State.setV_report (x : Reg) (b : Byte) : (s.setV x b).report = s.report := rfl
@[simp] theorem State.setV_drawnByte (x : Reg) (b : Byte) : (s.setV x b).drawnByte = s.drawnByte := rfl
@[simp] theorem State.setV_keyNamedDown (x : Reg) (b : Byte) (q : Byte) : (s.setV x b).keyNamedDown q = s.keyNamedDown q := rfl

/-! ### setI -/

@[simp] theorem State.setI_v (a : Word) : (s.setI a).v = s.v := rfl
@[simp] theorem State.setI_i (a : Word) : (s.setI a).i = a := rfl
@[simp] theorem State.setI_pc (a : Word) : (s.setI a).pc = s.pc := rfl
@[simp] theorem State.setI_dt (a : Word) : (s.setI a).dt = s.dt := rfl
@[simp] theorem State.setI_st (a : Word) : (s.setI a).st = s.st := rfl
@[simp] theorem State.setI_stack (a : Word) : (s.setI a).stack = s.stack := rfl
@[simp] theorem State.setI_mem (a : Word) : (s.setI a).mem = s.mem := rfl
@[simp] theorem State.setI_fb (a : Word) : (s.setI a).fb = s.fb := rfl
@[simp] theorem State.setI_wait (a : Word) : (s.setI a).wait = s.wait := rfl
@[simp] theorem State.setI_keys (a : Word) : (s.setI a).keys = s.keys := rfl
@[simp] theorem State.setI_fault (a : Word) : (s.setI a).fault = s.fault := rfl
@[simp] theorem State.setI_out (a : Word) : (s.setI a).out = s.out := rfl
@[simp] theorem State.setI_draws (a : Word) : (s.setI a).draws = s.draws := rfl
@[simp] theorem State.setI_schedule (a : Word) : (s.setI a).schedule = s.schedule := rfl
@[simp] theorem State.setI_launched (a : Word) : (s.setI a).launched = s.launched := rfl
@[simp] theorem State.setI_getV (a : Word) (r : Reg) : (s.setI a).getV r = s.getV r := rfl
@[simp] theorem State.setI_readMem (a : Word) (p : Addr) : (s.setI a).readMem p = s.readMem p := rfl
@[simp] theorem State.setI_fetch (a : Word) : (s.setI a).fetch = s.fetch := rfl
@[simp] theorem State.setI_report (a : Word) : (s.setI a).report = s.report := rfl
@[simp] theorem State.setI_drawnByte (a : Word) : (s.setI a).drawnByte = s.drawnByte := rfl
@[simp] theorem State.setI_keyNamedDown (a : Word) (q : Byte) : (s.setI a).keyNamedDown q = s.keyNamedDown q := rfl

/-! ### setDT -/

@[simp] theorem State.setDT_v (b : Byte) : (s.setDT b).v = s.v := rfl
@[simp] theorem State.setDT_i (b : Byte) : (s.setDT b).i = s.i := rfl
@[simp] theorem State.setDT_pc (b : Byte) : (s.setDT b).pc = s.pc := rfl
@[simp] theorem State.setDT_dt (b : Byte) : (s.setDT b).dt = b := rfl
@[simp] theorem State.setDT_st (b : Byte) : (s.setDT b).st = s.st := rfl
@[simp] theorem State.setDT_stack (b : Byte) : (s.setDT b).stack = s.stack := rfl
@[simp] theorem State.setDT_mem (b : Byte) : (s.setDT b).mem = s.mem := rfl
@[simp] theorem State.setDT_fb (b : Byte) : (s.setDT b).fb = s.fb := rfl
@[simp] theorem State.setDT_wait (b : Byte) : (s.setDT b).wait = s.wait := rfl
@[simp] theorem State.setDT_keys (b : Byte) : (s.setDT b).keys = s.keys := rfl
@[simp] theorem State.setDT_fault (b : Byte) : (s.setDT b).fault = s.fault := rfl
@[simp] theorem State.setDT_out (b : Byte) : (s.setDT b).out = s.out := rfl
@[simp] theorem State.setDT_draws (b : Byte) : (s.setDT b).draws = s.draws := rfl
@[simp] theorem State.setDT_schedule (b : Byte) : (s.setDT b).schedule = s.schedule := rfl
@[simp] theorem State.setDT_launched (b : Byte) : (s.setDT b).launched = s.launched := rfl
@[simp] theorem State.setDT_getV (b : Byte) (r : Reg) : (s.setDT b).getV r = s.getV r := rfl
@[simp] theorem State.setDT_readMem (b : Byte) (p : Addr) : (s.setDT b).readMem p = s.readMem p := rfl
@[simp] theorem State.setDT_dataAddr (b : Byte) (n : Nat) : (s.setDT b).dataAddr n = s.dataAddr n := rfl
@[simp] theorem State.setDT_fetch (b : Byte) : (s.setDT b).fetch = s.fetch := rfl
@[simp] theorem State.setDT_report (b : Byte) : (s.setDT b).report = s.report := rfl
@[simp] theorem State.setDT_drawnByte (b : Byte) : (s.setDT b).drawnByte = s.drawnByte := rfl
@[simp] theorem State.setDT_keyNamedDown (b : Byte) (q : Byte) : (s.setDT b).keyNamedDown q = s.keyNamedDown q := rfl

/-! ### setST -/

@[simp] theorem State.setST_v (b : Byte) : (s.setST b).v = s.v := rfl
@[simp] theorem State.setST_i (b : Byte) : (s.setST b).i = s.i := rfl
@[simp] theorem State.setST_pc (b : Byte) : (s.setST b).pc = s.pc := rfl
@[simp] theorem State.setST_dt (b : Byte) : (s.setST b).dt = s.dt := rfl
@[simp] theorem State.setST_st (b : Byte) : (s.setST b).st = b := rfl
@[simp] theorem State.setST_stack (b : Byte) : (s.setST b).stack = s.stack := rfl
@[simp] theorem State.setST_mem (b : Byte) : (s.setST b).mem = s.mem := rfl
@[simp] theorem State.setST_fb (b : Byte) : (s.setST b).fb = s.fb := rfl
@[simp] theorem State.setST_wait (b : Byte) : (s.setST b).wait = s.wait := rfl
@[simp] theorem State.setST_keys (b : Byte) : (s.setST b).keys = s.keys := rfl
@[simp] theorem State.setST_fault (b : Byte) : (s.setST b).fault = s.fault := rfl
@[simp] theorem State.setST_out (b : Byte) : (s.setST b).out = s.out := rfl
@[simp] theorem State.setST_draws (b : Byte) : (s.setST b).draws = s.draws := rfl
@[simp] theorem State.setST_schedule (b : Byte) : (s.setST b).schedule = s.schedule := rfl
@[simp] theorem State.setST_launched (b : Byte) : (s.setST b).launched = s.launched := rfl
@[simp] theorem State.setST_getV (b : Byte) (r : Reg) : (s.setST b).getV r = s.getV r := rfl
@[simp] theorem State.setST_readMem (b : Byte) (p : Addr) : (s.setST b).readMem p = s.readMem p := rfl
@[simp] theorem State.setST_dataAddr (b : Byte) (n : Nat) : (s.setST b).dataAddr n = s.dataAddr n := rfl
@[simp] theorem State.setST_fetch (b : Byte) : (s.setST b).fetch = s.fetch := rfl
@[simp] theorem State.setST_report (b : Byte) : (s.setST b).report = s.report := rfl
@[simp] theorem State.setST_drawnByte (b : Byte) : (s.setST b).drawnByte = s.drawnByte := rfl
@[simp] theorem State.setST_keyNamedDown (b : Byte) (q : Byte) : (s.setST b).keyNamedDown q = s.keyNamedDown q := rfl

/-! ### setPC -/

@[simp] theorem State.setPC_v (a : Word) : (s.setPC a).v = s.v := rfl
@[simp] theorem State.setPC_i (a : Word) : (s.setPC a).i = s.i := rfl
@[simp] theorem State.setPC_pc (a : Word) : (s.setPC a).pc = a := rfl
@[simp] theorem State.setPC_dt (a : Word) : (s.setPC a).dt = s.dt := rfl
@[simp] theorem State.setPC_st (a : Word) : (s.setPC a).st = s.st := rfl
@[simp] theorem State.setPC_stack (a : Word) : (s.setPC a).stack = s.stack := rfl
@[simp] theorem State.setPC_mem (a : Word) : (s.setPC a).mem = s.mem := rfl
@[simp] theorem State.setPC_fb (a : Word) : (s.setPC a).fb = s.fb := rfl
@[simp] theorem State.setPC_wait (a : Word) : (s.setPC a).wait = s.wait := rfl
@[simp] theorem State.setPC_keys (a : Word) : (s.setPC a).keys = s.keys := rfl
@[simp] theorem State.setPC_fault (a : Word) : (s.setPC a).fault = s.fault := rfl
@[simp] theorem State.setPC_out (a : Word) : (s.setPC a).out = s.out := rfl
@[simp] theorem State.setPC_draws (a : Word) : (s.setPC a).draws = s.draws := rfl
@[simp] theorem State.setPC_schedule (a : Word) : (s.setPC a).schedule = s.schedule := rfl
@[simp] theorem State.setPC_launched (a : Word) : (s.setPC a).launched = s.launched := rfl
@[simp] theorem State.setPC_getV (a : Word) (r : Reg) : (s.setPC a).getV r = s.getV r := rfl
@[simp] theorem State.setPC_readMem (a : Word) (p : Addr) : (s.setPC a).readMem p = s.readMem p := rfl
@[simp] theorem State.setPC_dataAddr (a : Word) (n : Nat) : (s.setPC a).dataAddr n = s.dataAddr n := rfl
@[simp] theorem State.setPC_report (a : Word) : (s.setPC a).report = s.report := rfl
@[simp] theorem State.setPC_drawnByte (a : Word) : (s.setPC a).drawnByte = s.drawnByte := rfl
@[simp] theorem State.setPC_keyNamedDown (a : Word) (q : Byte) : (s.setPC a).keyNamedDown q = s.keyNamedDown q := rfl

/-! ### advance -/

@[simp] theorem State.advance_v : s.advance.v = s.v := rfl
@[simp] theorem State.advance_i : s.advance.i = s.i := rfl
@[simp] theorem State.advance_pc : s.advance.pc = s.pc + 2 := rfl
@[simp] theorem State.advance_dt : s.advance.dt = s.dt := rfl
@[simp] theorem State.advance_st : s.advance.st = s.st := rfl
@[simp] theorem State.advance_stack : s.advance.stack = s.stack := rfl
@[simp] theorem State.advance_mem : s.advance.mem = s.mem := rfl
@[simp] theorem State.advance_fb : s.advance.fb = s.fb := rfl
@[simp] theorem State.advance_wait : s.advance.wait = s.wait := rfl
@[simp] theorem State.advance_keys : s.advance.keys = s.keys := rfl
@[simp] theorem State.advance_fault : s.advance.fault = s.fault := rfl
@[simp] theorem State.advance_out : s.advance.out = s.out := rfl
@[simp] theorem State.advance_draws : s.advance.draws = s.draws := rfl
@[simp] theorem State.advance_schedule : s.advance.schedule = s.schedule := rfl
@[simp] theorem State.advance_launched : s.advance.launched = s.launched := rfl
@[simp] theorem State.advance_getV (r : Reg) : s.advance.getV r = s.getV r := rfl
@[simp] theorem State.advance_readMem (p : Addr) : s.advance.readMem p = s.readMem p := rfl
@[simp] theorem State.advance_dataAddr (n : Nat) : s.advance.dataAddr n = s.dataAddr n := rfl
@[simp] theorem State.advance_report : s.advance.report = s.report := rfl
@[simp] theorem State.advance_drawnByte : s.advance.drawnByte = s.drawnByte := rfl
@[simp] theorem State.advance_keyNamedDown (q : Byte) : s.advance.keyNamedDown q = s.keyNamedDown q := rfl

/-! ### skipIf -/

@[simp] theorem State.skipIf_v (c : Bool) : (s.skipIf c).v = s.v := rfl
@[simp] theorem State.skipIf_i (c : Bool) : (s.skipIf c).i = s.i := rfl
@[simp] theorem State.skipIf_pc (c : Bool) : (s.skipIf c).pc = if c then s.pc + 4 else s.pc + 2 := rfl
@[simp] theorem State.skipIf_dt (c : Bool) : (s.skipIf c).dt = s.dt := rfl
@[simp] theorem State.skipIf_st (c : Bool) : (s.skipIf c).st = s.st := rfl
@[simp] theorem State.skipIf_stack (c : Bool) : (s.skipIf c).stack = s.stack := rfl
@[simp] theorem State.skipIf_mem (c : Bool) : (s.skipIf c).mem = s.mem := rfl
@[simp] theorem State.skipIf_fb (c : Bool) : (s.skipIf c).fb = s.fb := rfl
@[simp] theorem State.skipIf_wait (c : Bool) : (s.skipIf c).wait = s.wait := rfl
@[simp] theorem State.skipIf_keys (c : Bool) : (s.skipIf c).keys = s.keys := rfl
@[simp] theorem State.skipIf_fault (c : Bool) : (s.skipIf c).fault = s.fault := rfl
@[simp] theorem State.skipIf_out (c : Bool) : (s.skipIf c).out = s.out := rfl
@[simp] theorem State.skipIf_draws (c : Bool) : (s.skipIf c).draws = s.draws := rfl
@[simp] theorem State.skipIf_schedule (c : Bool) : (s.skipIf c).schedule = s.schedule := rfl
@[simp] theorem State.skipIf_launched (c : Bool) : (s.skipIf c).launched = s.launched := rfl
@[simp] theorem State.skipIf_getV (c : Bool) (r : Reg) : (s.skipIf c).getV r = s.getV r := rfl
@[simp] theorem State.skipIf_readMem (c : Bool) (p : Addr) : (s.skipIf c).readMem p = s.readMem p := rfl
@[simp] theorem State.skipIf_dataAddr (c : Bool) (n : Nat) : (s.skipIf c).dataAddr n = s.dataAddr n := rfl
@[simp] theorem State.skipIf_report (c : Bool) : (s.skipIf c).report = s.report := rfl
@[simp] theorem State.skipIf_drawnByte (c : Bool) : (s.skipIf c).drawnByte = s.drawnByte := rfl
@[simp] theorem State.skipIf_keyNamedDown (c : Bool) (q : Byte) : (s.skipIf c).keyNamedDown q = s.keyNamedDown q := rfl

/-! ### push -/

@[simp] theorem State.push_v (a : Word) : (s.push a).v = s.v := rfl
@[simp] theorem State.push_i (a : Word) : (s.push a).i = s.i := rfl
@[simp] theorem State.push_pc (a : Word) : (s.push a).pc = s.pc := rfl
@[simp] theorem State.push_dt (a : Word) : (s.push a).dt = s.dt := rfl
@[simp] theorem State.push_st (a : Word) : (s.push a).st = s.st := rfl
@[simp] theorem State.push_stack (a : Word) : (s.push a).stack = s.stack ++ [a] := rfl
@[simp] theorem State.push_mem (a : Word) : (s.push a).mem = s.mem := rfl
@[simp] theorem State.push_fb (a : Word) : (s.push a).fb = s.fb := rfl
@[simp] theorem State.push_wait (a : Word) : (s.push a).wait = s.wait := rfl
@[simp] theorem State.push_keys (a : Word) : (s.push a).keys = s.keys := rfl
@[simp] theorem State.push_fault (a : Word) : (s.push a).fault = s.fault := rfl
@[simp] theorem State.push_out (a : Word) : (s.push a).out = s.out := rfl
@[simp] theorem State.push_draws (a : Word) : (s.push a).draws = s.draws := rfl
@[simp] theorem State.push_schedule (a : Word) : (s.push a).schedule = s.schedule := rfl
@[simp] theorem State.push_launched (a : Word) : (s.push a).launched = s.launched := rfl
@[simp] theorem State.push_getV (a : Word) (r : Reg) : (s.push a).getV r = s.getV r := rfl
@[simp] theorem State.push_readMem (a : Word) (p : Addr) : (s.push a).readMem p = s.readMem p := rfl
@[simp] theorem State.push_dataAddr (a : Word) (n : Nat) : (s.push a).dataAddr n = s.dataAddr n := rfl
@[simp] theorem State.push_fetch (a : Word) : (s.push a).fetch = s.fetch := rfl
@[simp] theorem State.push_report (a : Word) : (s.push a).report = s.report := rfl
@[simp] theorem State.push_drawnByte (a : Word) : (s.push a).drawnByte = s.drawnByte := rfl
@[simp] theorem State.push_keyNamedDown (a : Word) (q : Byte) : (s.push a).keyNamedDown q = s.keyNamedDown q := rfl

/-! ### dropTop -/

@[simp] theorem State.dropTop_v : s.dropTop.v = s.v := rfl
@[simp] theorem State.dropTop_i : s.dropTop.i = s.i := rfl
@[simp] theorem State.dropTop_pc : s.dropTop.pc = s.pc := rfl
@[simp] theorem State.dropTop_dt : s.dropTop.dt = s.dt := rfl
@[simp] theorem State.dropTop_st : s.dropTop.st = s.st := rfl
@[simp] theorem State.dropTop_stack : s.dropTop.stack = s.stack.dropLast := rfl
@[simp] theorem State.dropTop_mem : s.dropTop.mem = s.mem := rfl
@[simp] theorem State.dropTop_fb : s.dropTop.fb = s.fb := rfl
@[simp] theorem State.dropTop_wait : s.dropTop.wait = s.wait := rfl
@[simp] theorem State.dropTop_keys : s.dropTop.keys = s.keys := rfl
@[simp] theorem State.dropTop_fault : s.dropTop.fault = s.fault := rfl
@[simp] theorem State.dropTop_out : s.dropTop.out = s.out := rfl
@[simp] theorem State.dropTop_draws : s.dropTop.draws = s.draws := rfl
@[simp] theorem State.dropTop_schedule : s.dropTop.schedule = s.schedule := rfl
@[simp] theorem State.dropTop_launched : s.dropTop.launched = s.launched := rfl
@[simp] theorem State.dropTop_getV (r : Reg) : s.dropTop.getV r = s.getV r := rfl
@[simp] theorem State.dropTop_readMem (p : Addr) : s.dropTop.readMem p = s.readMem p := rfl
@[simp] theorem State.dropTop_dataAddr (n : Nat) : s.dropTop.dataAddr n = s.dataAddr n := rfl
@[simp] theorem State.dropTop_fetch : s.dropTop.fetch = s.fetch := rfl
@[simp] theorem State.dropTop_report : s.dropTop.report = s.report := rfl
@[simp] theorem State.dropTop_drawnByte : s.dropTop.drawnByte = s.drawnByte := rfl
@[simp] theorem State.dropTop_keyNamedDown (q : Byte) : s.dropTop.keyNamedDown q = s.keyNamedDown q := rfl

/-! ### setFB -/

@[simp] theorem State.setFB_v (f : Framebuffer) : (s.setFB f).v = s.v := rfl
@[simp] theorem State.setFB_i (f : Framebuffer) : (s.setFB f).i = s.i := rfl
@[simp] theorem State.setFB_pc (f : Framebuffer) : (s.setFB f).pc = s.pc := rfl
@[simp] theorem State.setFB_dt (f : Framebuffer) : (s.setFB f).dt = s.dt := rfl
@[simp] theorem State.setFB_st (f : Framebuffer) : (s.setFB f).st = s.st := rfl
@[simp] theorem State.setFB_stack (f : Framebuffer) : (s.setFB f).stack = s.stack := rfl
@[simp] theorem State.setFB_mem (f : Framebuffer) : (s.setFB f).mem = s.mem := rfl
@[simp] theorem State.setFB_fb (f : Framebuffer) : (s.setFB f).fb = f := rfl
@[simp] theorem State.setFB_wait (f : Framebuffer) : (s.setFB f).wait = s.wait := rfl
@[simp] theorem State.setFB_keys (f : Framebuffer) : (s.setFB f).keys = s.keys := rfl
@[simp] theorem State.setFB_fault (f : Framebuffer) : (s.setFB f).fault = s.fault := rfl
@[simp] theorem State.setFB_out (f : Framebuffer) : (s.setFB f).out = s.out := rfl
@[simp] theorem State.setFB_draws (f : Framebuffer) : (s.setFB f).draws = s.draws := rfl
@[simp] theorem State.setFB_schedule (f : Framebuffer) : (s.setFB f).schedule = s.schedule := rfl
@[simp] theorem State.setFB_launched (f : Framebuffer) : (s.setFB f).launched = s.launched := rfl
@[simp] theorem State.setFB_getV (f : Framebuffer) (r : Reg) : (s.setFB f).getV r = s.getV r := rfl
@[simp] theorem State.setFB_readMem (f : Framebuffer) (p : Addr) : (s.setFB f).readMem p = s.readMem p := rfl
@[simp] theorem State.setFB_dataAddr (f : Framebuffer) (n : Nat) : (s.setFB f).dataAddr n = s.dataAddr n := rfl
@[simp] theorem State.setFB_fetch (f : Framebuffer) : (s.setFB f).fetch = s.fetch := rfl
@[simp] theorem State.setFB_report (f : Framebuffer) : (s.setFB f).report = s.report := rfl
@[simp] theorem State.setFB_drawnByte (f : Framebuffer) : (s.setFB f).drawnByte = s.drawnByte := rfl
@[simp] theorem State.setFB_keyNamedDown (f : Framebuffer) (q : Byte) : (s.setFB f).keyNamedDown q = s.keyNamedDown q := rfl

/-! ### emit -/

@[simp] theorem State.emit_v (c : DisplayCommand) : (s.emit c).v = s.v := rfl
@[simp] theorem State.emit_i (c : DisplayCommand) : (s.emit c).i = s.i := rfl
@[simp] theorem State.emit_pc (c : DisplayCommand) : (s.emit c).pc = s.pc := rfl
@[simp] theorem State.emit_dt (c : DisplayCommand) : (s.emit c).dt = s.dt := rfl
@[simp] theorem State.emit_st (c : DisplayCommand) : (s.emit c).st = s.st := rfl
@[simp] theorem State.emit_stack (c : DisplayCommand) : (s.emit c).stack = s.stack := rfl
@[simp] theorem State.emit_mem (c : DisplayCommand) : (s.emit c).mem = s.mem := rfl
@[simp] theorem State.emit_fb (c : DisplayCommand) : (s.emit c).fb = s.fb := rfl
@[simp] theorem State.emit_wait (c : DisplayCommand) : (s.emit c).wait = s.wait := rfl
@[simp] theorem State.emit_keys (c : DisplayCommand) : (s.emit c).keys = s.keys := rfl
@[simp] theorem State.emit_fault (c : DisplayCommand) : (s.emit c).fault = s.fault := rfl
@[simp] theorem State.emit_out (c : DisplayCommand) : (s.emit c).out = s.out ++ [c] := rfl
@[simp] theorem State.emit_draws (c : DisplayCommand) : (s.emit c).draws = s.draws := rfl
@[simp] theorem State.emit_schedule (c : DisplayCommand) : (s.emit c).schedule = s.schedule := rfl
@[simp] theorem State.emit_launched (c : DisplayCommand) : (s.emit c).launched = s.launched := rfl
@[simp] theorem State.emit_getV (c : DisplayCommand) (r : Reg) : (s.emit c).getV r = s.getV r := rfl
@[simp] theorem State.emit_readMem (c : DisplayCommand) (p : Addr) : (s.emit c).readMem p = s.readMem p := rfl
@[simp] theorem State.emit_dataAddr (c : DisplayCommand) (n : Nat) : (s.emit c).dataAddr n = s.dataAddr n := rfl
@[simp] theorem State.emit_fetch (c : DisplayCommand) : (s.emit c).fetch = s.fetch := rfl
@[simp] theorem State.emit_report (c : DisplayCommand) : (s.emit c).report = s.report := rfl
@[simp] theorem State.emit_drawnByte (c : DisplayCommand) : (s.emit c).drawnByte = s.drawnByte := rfl
@[simp] theorem State.emit_keyNamedDown (c : DisplayCommand) (q : Byte) : (s.emit c).keyNamedDown q = s.keyNamedDown q := rfl

/-! ### clearReleased -/

@[simp] theorem State.clearReleased_v : s.clearReleased.v = s.v := rfl
@[simp] theorem State.clearReleased_i : s.clearReleased.i = s.i := rfl
@[simp] theorem State.clearReleased_pc : s.clearReleased.pc = s.pc := rfl
@[simp] theorem State.clearReleased_dt : s.clearReleased.dt = s.dt := rfl
@[simp] theorem State.clearReleased_st : s.clearReleased.st = s.st := rfl
@[simp] theorem State.clearReleased_stack : s.clearReleased.stack = s.stack := rfl
@[simp] theorem State.clearReleased_mem : s.clearReleased.mem = s.mem := rfl
@[simp] theorem State.clearReleased_fb : s.clearReleased.fb = s.fb := rfl
@[simp] theorem State.clearReleased_wait : s.clearReleased.wait = s.wait := rfl
@[simp] theorem State.clearReleased_keys : s.clearReleased.keys = ⟨s.keys.pressed, none⟩ := rfl
@[simp] theorem State.clearReleased_fault : s.clearReleased.fault = s.fault := rfl
@[simp] theorem State.clearReleased_out : s.clearReleased.out = s.out := rfl
@[simp] theorem State.clearReleased_draws : s.clearReleased.draws = s.draws := rfl
@[simp] theorem State.clearReleased_schedule : s.clearReleased.schedule = s.schedule := rfl
@[simp] theorem State.clearReleased_launched : s.clearReleased.launched = s.launched := rfl
@[simp] theorem State.clearReleased_getV (r : Reg) : s.clearReleased.getV r = s.getV r := rfl
@[simp] theorem State.clearReleased_readMem (p : Addr) : s.clearReleased.readMem p = s.readMem p := rfl
@[simp] theorem State.clearReleased_dataAddr (n : Nat) : s.clearReleased.dataAddr n = s.dataAddr n := rfl
@[simp] theorem State.clearReleased_fetch : s.clearReleased.fetch = s.fetch := rfl
@[simp] theorem State.clearReleased_report : s.clearReleased.report = s.report := rfl
@[simp] theorem State.clearReleased_drawnByte : s.clearReleased.drawnByte = s.drawnByte := rfl

/-! ### setWait -/

@[simp] theorem State.setWait_v (w : Wait) : (s.setWait w).v = s.v := rfl
@[simp] theorem State.setWait_i (w : Wait) : (s.setWait w).i = s.i := rfl
@[simp] theorem State.setWait_pc (w : Wait) : (s.setWait w).pc = s.pc := rfl
@[simp] theorem State.setWait_dt (w : Wait) : (s.setWait w).dt = s.dt := rfl
@[simp] theorem State.setWait_st (w : Wait) : (s.setWait w).st = s.st := rfl
@[simp] theorem State.setWait_stack (w : Wait) : (s.setWait w).stack = s.stack := rfl
@[simp] theorem State.setWait_mem (w : Wait) : (s.setWait w).mem = s.mem := rfl
@[simp] theorem State.setWait_fb (w : Wait) : (s.setWait w).fb = s.fb := rfl
@[simp] theorem State.setWait_wait (w : Wait) : (s.setWait w).wait = w := rfl
@[simp] theorem State.setWait_keys (w : Wait) : (s.setWait w).keys = s.keys := rfl
@[simp] theorem State.setWait_fault (w : Wait) : (s.setWait w).fault = s.fault := rfl
@[simp] theorem State.setWait_out (w : Wait) : (s.setWait w).out = s.out := rfl
@[simp] theorem State.setWait_draws (w : Wait) : (s.setWait w).draws = s.draws := rfl
@[simp] theorem State.setWait_schedule (w : Wait) : (s.setWait w).schedule = s.schedule := rfl
@[simp] theorem State.setWait_launched (w : Wait) : (s.setWait w).launched = s.launched := rfl
@[simp] theorem State.setWait_getV (w : Wait) (r : Reg) : (s.setWait w).getV r = s.getV r := rfl
@[simp] theorem State.setWait_readMem (w : Wait) (p : Addr) : (s.setWait w).readMem p = s.readMem p := rfl
@[simp] theorem State.setWait_dataAddr (w : Wait) (n : Nat) : (s.setWait w).dataAddr n = s.dataAddr n := rfl
@[simp] theorem State.setWait_fetch (w : Wait) : (s.setWait w).fetch = s.fetch := rfl
@[simp] theorem State.setWait_drawnByte (w : Wait) : (s.setWait w).drawnByte = s.drawnByte := rfl
@[simp] theorem State.setWait_keyNamedDown (w : Wait) (q : Byte) : (s.setWait w).keyNamedDown q = s.keyNamedDown q := rfl

/-! ### countDraw -/

@[simp] theorem State.countDraw_v : s.countDraw.v = s.v := rfl
@[simp] theorem State.countDraw_i : s.countDraw.i = s.i := rfl
@[simp] theorem State.countDraw_pc : s.countDraw.pc = s.pc := rfl
@[simp] theorem State.countDraw_dt : s.countDraw.dt = s.dt := rfl
@[simp] theorem State.countDraw_st : s.countDraw.st = s.st := rfl
@[simp] theorem State.countDraw_stack : s.countDraw.stack = s.stack := rfl
@[simp] theorem State.countDraw_mem : s.countDraw.mem = s.mem := rfl
@[simp] theorem State.countDraw_fb : s.countDraw.fb = s.fb := rfl
@[simp] theorem State.countDraw_wait : s.countDraw.wait = s.wait := rfl
@[simp] theorem State.countDraw_keys : s.countDraw.keys = s.keys := rfl
@[simp] theorem State.countDraw_fault : s.countDraw.fault = s.fault := rfl
@[simp] theorem State.countDraw_out : s.countDraw.out = s.out := rfl
@[simp] theorem State.countDraw_draws : s.countDraw.draws = s.draws + 1 := rfl
@[simp] theorem State.countDraw_schedule : s.countDraw.schedule = s.schedule := rfl
@[simp] theorem State.countDraw_launched : s.countDraw.launched = s.launched := rfl
@[simp] theorem State.countDraw_getV (r : Reg) : s.countDraw.getV r = s.getV r := rfl
@[simp] theorem State.countDraw_readMem (p : Addr) : s.countDraw.readMem p = s.readMem p := rfl
@[simp] theorem State.countDraw_dataAddr (n : Nat) : s.countDraw.dataAddr n = s.dataAddr n := rfl
@[simp] theorem State.countDraw_fetch : s.countDraw.fetch = s.fetch := rfl
@[simp] theorem State.countDraw_report : s.countDraw.report = s.report := rfl
@[simp] theorem State.countDraw_keyNamedDown (q : Byte) : s.countDraw.keyNamedDown q = s.keyNamedDown q := rfl

/-! ### raiseFault -/

@[simp] theorem State.raiseFault_v (c : FaultCause) (j : Instr) : (s.raiseFault c j).v = s.v := rfl
@[simp] theorem State.raiseFault_i (c : FaultCause) (j : Instr) : (s.raiseFault c j).i = s.i := rfl
@[simp] theorem State.raiseFault_pc (c : FaultCause) (j : Instr) : (s.raiseFault c j).pc = s.pc := rfl
@[simp] theorem State.raiseFault_dt (c : FaultCause) (j : Instr) : (s.raiseFault c j).dt = s.dt := rfl
@[simp] theorem State.raiseFault_st (c : FaultCause) (j : Instr) : (s.raiseFault c j).st = s.st := rfl
@[simp] theorem State.raiseFault_stack (c : FaultCause) (j : Instr) : (s.raiseFault c j).stack = s.stack := rfl
@[simp] theorem State.raiseFault_mem (c : FaultCause) (j : Instr) : (s.raiseFault c j).mem = s.mem := rfl
@[simp] theorem State.raiseFault_fb (c : FaultCause) (j : Instr) : (s.raiseFault c j).fb = s.fb := rfl
@[simp] theorem State.raiseFault_wait (c : FaultCause) (j : Instr) : (s.raiseFault c j).wait = s.wait := rfl
@[simp] theorem State.raiseFault_keys (c : FaultCause) (j : Instr) : (s.raiseFault c j).keys = s.keys := rfl
@[simp] theorem State.raiseFault_fault (c : FaultCause) (j : Instr) : (s.raiseFault c j).fault = some ⟨c, s.pc, encode j⟩ := rfl
@[simp] theorem State.raiseFault_out (c : FaultCause) (j : Instr) : (s.raiseFault c j).out = s.out := rfl
@[simp] theorem State.raiseFault_draws (c : FaultCause) (j : Instr) : (s.raiseFault c j).draws = s.draws := rfl
@[simp] theorem State.raiseFault_schedule (c : FaultCause) (j : Instr) : (s.raiseFault c j).schedule = s.schedule := rfl
@[simp] theorem State.raiseFault_launched (c : FaultCause) (j : Instr) : (s.raiseFault c j).launched = s.launched := rfl
@[simp] theorem State.raiseFault_getV (c : FaultCause) (j : Instr) (r : Reg) : (s.raiseFault c j).getV r = s.getV r := rfl
@[simp] theorem State.raiseFault_readMem (c : FaultCause) (j : Instr) (p : Addr) : (s.raiseFault c j).readMem p = s.readMem p := rfl
@[simp] theorem State.raiseFault_dataAddr (c : FaultCause) (j : Instr) (n : Nat) : (s.raiseFault c j).dataAddr n = s.dataAddr n := rfl
@[simp] theorem State.raiseFault_fetch (c : FaultCause) (j : Instr) : (s.raiseFault c j).fetch = s.fetch := rfl
@[simp] theorem State.raiseFault_drawnByte (c : FaultCause) (j : Instr) : (s.raiseFault c j).drawnByte = s.drawnByte := rfl
@[simp] theorem State.raiseFault_keyNamedDown (c : FaultCause) (j : Instr) (q : Byte) : (s.raiseFault c j).keyNamedDown q = s.keyNamedDown q := rfl

/-! ### press -/

@[simp] theorem State.press_v (k : Key) : (s.press k).v = s.v := rfl
@[simp] theorem State.press_i (k : Key) : (s.press k).i = s.i := rfl
@[simp] theorem State.press_pc (k : Key) : (s.press k).pc = s.pc := rfl
@[simp] theorem State.press_dt (k : Key) : (s.press k).dt = s.dt := rfl
@[simp] theorem State.press_st (k : Key) : (s.press k).st = s.st := rfl
@[simp] theorem State.press_stack (k : Key) : (s.press k).stack = s.stack := rfl
@[simp] theorem State.press_mem (k : Key) : (s.press k).mem = s.mem := rfl
@[simp] theorem State.press_fb (k : Key) : (s.press k).fb = s.fb := rfl
@[simp] theorem State.press_wait (k : Key) : (s.press k).wait = s.wait := rfl
@[simp] theorem State.press_keys (k : Key) : (s.press k).keys = ⟨s.keys.pressed ||| BitVec.twoPow 16 k.toNat, s.keys.lastReleased⟩ := rfl
@[simp] theorem State.press_fault (k : Key) : (s.press k).fault = s.fault := rfl
@[simp] theorem State.press_out (k : Key) : (s.press k).out = s.out := rfl
@[simp] theorem State.press_draws (k : Key) : (s.press k).draws = s.draws := rfl
@[simp] theorem State.press_schedule (k : Key) : (s.press k).schedule = s.schedule := rfl
@[simp] theorem State.press_launched (k : Key) : (s.press k).launched = s.launched := rfl
@[simp] theorem State.press_getV (k : Key) (r : Reg) : (s.press k).getV r = s.getV r := rfl
@[simp] theorem State.press_readMem (k : Key) (p : Addr) : (s.press k).readMem p = s.readMem p := rfl
@[simp] theorem State.press_dataAddr (k : Key) (n : Nat) : (s.press k).dataAddr n = s.dataAddr n := rfl
@[simp] theorem State.press_fetch (k : Key) : (s.press k).fetch = s.fetch := rfl
@[simp] theorem State.press_report (k : Key) : (s.press k).report = s.report := rfl
@[simp] theorem State.press_drawnByte (k : Key) : (s.press k).drawnByte = s.drawnByte := rfl

/-! ### release -/

@[simp] theorem State.release_v (k : Key) : (s.release k).v = s.v := rfl
@[simp] theorem State.release_i (k : Key) : (s.release k).i = s.i := rfl
@[simp] theorem State.release_pc (k : Key) : (s.release k).pc = s.pc := rfl
@[simp] theorem State.release_dt (k : Key) : (s.release k).dt = s.dt := rfl
@[simp] theorem State.release_st (k : Key) : (s.release k).st = s.st := rfl
@[simp] theorem State.release_stack (k : Key) : (s.release k).stack = s.stack := rfl
@[simp] theorem State.release_mem (k : Key) : (s.release k).mem = s.mem := rfl
@[simp] theorem State.release_fb (k : Key) : (s.release k).fb = s.fb := rfl
@[simp] theorem State.release_wait (k : Key) : (s.release k).wait = s.wait := rfl
@[simp] theorem State.release_keys (k : Key) : (s.release k).keys = ⟨s.keys.pressed &&& ~~~BitVec.twoPow 16 k.toNat, some k⟩ := rfl
@[simp] theorem State.release_fault (k : Key) : (s.release k).fault = s.fault := rfl
@[simp] theorem State.release_out (k : Key) : (s.release k).out = s.out := rfl
@[simp] theorem State.release_draws (k : Key) : (s.release k).draws = s.draws := rfl
@[simp] theorem State.release_schedule (k : Key) : (s.release k).schedule = s.schedule := rfl
@[simp] theorem State.release_launched (k : Key) : (s.release k).launched = s.launched := rfl
@[simp] theorem State.release_getV (k : Key) (r : Reg) : (s.release k).getV r = s.getV r := rfl
@[simp] theorem State.release_readMem (k : Key) (p : Addr) : (s.release k).readMem p = s.readMem p := rfl
@[simp] theorem State.release_dataAddr (k : Key) (n : Nat) : (s.release k).dataAddr n = s.dataAddr n := rfl
@[simp] theorem State.release_fetch (k : Key) : (s.release k).fetch = s.fetch := rfl
@[simp] theorem State.release_report (k : Key) : (s.release k).report = s.report := rfl
@[simp] theorem State.release_drawnByte (k : Key) : (s.release k).drawnByte = s.drawnByte := rfl

/-! ### hostReset -/

@[simp] theorem State.hostReset_pc (rom : List Byte) : (s.hostReset rom).pc = 0x200#16 := rfl
@[simp] theorem State.hostReset_mem (rom : List Byte) : (s.hostReset rom).mem = romMemory rom := rfl
@[simp] theorem State.hostReset_wait (rom : List Byte) : (s.hostReset rom).wait = .idle := rfl
@[simp] theorem State.hostReset_keys (rom : List Byte) : (s.hostReset rom).keys = ⟨s.keys.pressed, none⟩ := rfl
@[simp] theorem State.hostReset_fault (rom : List Byte) : (s.hostReset rom).fault = none := rfl
@[simp] theorem State.hostReset_draws (rom : List Byte) : (s.hostReset rom).draws = s.draws := rfl
@[simp] theorem State.hostReset_schedule (rom : List Byte) : (s.hostReset rom).schedule = s.schedule := rfl
@[simp] theorem State.hostReset_launched (rom : List Byte) : (s.hostReset rom).launched = true := rfl

/-! ### setVThenFlag -/

@[simp] theorem State.setVThenFlag_v (x : Reg) (b : Byte) (f : Bool) : (s.setVThenFlag x b f).v = ((s.setV x b).setV VF (flagByte f)).v := rfl
@[simp] theorem State.setVThenFlag_i (x : Reg) (b : Byte) (f : Bool) : (s.setVThenFlag x b f).i = s.i := rfl
@[simp] theorem State.setVThenFlag_pc (x : Reg) (b : Byte) (f : Bool) : (s.setVThenFlag x b f).pc = s.pc := rfl
@[simp] theorem State.setVThenFlag_dt (x : Reg) (b : Byte) (f : Bool) : (s.setVThenFlag x b f).dt = s.dt := rfl
@[simp] theorem State.setVThenFlag_st (x : Reg) (b : Byte) (f : Bool) : (s.setVThenFlag x b f).st = s.st := rfl
@[simp] theorem State.setVThenFlag_stack (x : Reg) (b : Byte) (f : Bool) : (s.setVThenFlag x b f).stack = s.stack := rfl
@[simp] theorem State.setVThenFlag_mem (x : Reg) (b : Byte) (f : Bool) : (s.setVThenFlag x b f).mem = s.mem := rfl
@[simp] theorem State.setVThenFlag_fb (x : Reg) (b : Byte) (f : Bool) : (s.setVThenFlag x b f).fb = s.fb := rfl
@[simp] theorem State.setVThenFlag_wait (x : Reg) (b : Byte) (f : Bool) : (s.setVThenFlag x b f).wait = s.wait := rfl
@[simp] theorem State.setVThenFlag_keys (x : Reg) (b : Byte) (f : Bool) : (s.setVThenFlag x b f).keys = s.keys := rfl
@[simp] theorem State.setVThenFlag_fault (x : Reg) (b : Byte) (f : Bool) : (s.setVThenFlag x b f).fault = s.fault := rfl
@[simp] theorem State.setVThenFlag_out (x : Reg) (b : Byte) (f : Bool) : (s.setVThenFlag x b f).out = s.out := rfl
@[simp] theorem State.setVThenFlag_draws (x : Reg) (b : Byte) (f : Bool) : (s.setVThenFlag x b f).draws = s.draws := rfl
@[simp] theorem State.setVThenFlag_schedule (x : Reg) (b : Byte) (f : Bool) : (s.setVThenFlag x b f).schedule = s.schedule := rfl
@[simp] theorem State.setVThenFlag_launched (x : Reg) (b : Byte) (f : Bool) : (s.setVThenFlag x b f).launched = s.launched := rfl
@[simp] theorem State.setVThenFlag_readMem (x : Reg) (b : Byte) (f : Bool) (p : Addr) : (s.setVThenFlag x b f).readMem p = s.readMem p := rfl
@[simp] theorem State.setVThenFlag_dataAddr (x : Reg) (b : Byte) (f : Bool) (n : Nat) : (s.setVThenFlag x b f).dataAddr n = s.dataAddr n := rfl
@[simp] theorem State.setVThenFlag_fetch (x : Reg) (b : Byte) (f : Bool) : (s.setVThenFlag x b f).fetch = s.fetch := rfl
@[simp] theorem State.setVThenFlag_report (x : Reg) (b : Byte) (f : Bool) : (s.setVThenFlag x b f).report = s.report := rfl
@[simp] theorem State.setVThenFlag_drawnByte (x : Reg) (b : Byte) (f : Bool) : (s.setVThenFlag x b f).drawnByte = s.drawnByte := rfl
@[simp] theorem State.setVThenFlag_keyNamedDown (x : Reg) (b : Byte) (f : Bool) (q : Byte) : (s.setVThenFlag x b f).keyNamedDown q = s.keyNamedDown q := rfl

end Sys2Proof.Machine
end

