-- ==== Sys2Proof/Laws/Ops.lean ====
section
/-! SUPPORT. What each shared operation does, said once: registers, memory on the state, register blocks, the framebuffer,
fetch, and the poll. -/

namespace Sys2Proof.Machine

/-! ### Registers -/

/-- A register read after a register write. -/
theorem State.getV_setV (s : State) (x r : Reg) (b : Byte) :
    (s.setV x b).getV r = if r = x then b else s.getV r := by
  simp only [State.getV, State.setV, Vector.getElem_set, BitVec.toNat_inj, eq_comm]

@[simp] theorem State.getV_setV_self (s : State) (x : Reg) (b : Byte) : (s.setV x b).getV x = b := by
  rw [State.getV_setV, if_pos rfl]

theorem State.getV_setV_of_ne (s : State) {x r : Reg} (h : r ≠ x) (b : Byte) : (s.setV x b).getV r = s.getV r := by
  rw [State.getV_setV, if_neg h]

/-- The flag is what VF holds, whatever the destination (R37). -/
theorem State.getV_setVThenFlag (s : State) (x r : Reg) (b : Byte) (f : Bool) :
    (s.setVThenFlag x b f).getV r = if r = VF then flagByte f else if r = x then b else s.getV r := by
  rw [State.setVThenFlag, State.getV_setV, State.getV_setV]

/-- Every register of a reset machine reads 0. -/
theorem State.getV_reset (r : Reg) : State.reset.getV r = 0 := by
  simp [State.getV, State.reset]

/-- Two register files that agree on every register are the same. -/
theorem State.v_ext {s t : State} (h : ∀ r, s.getV r = t.getV r) : s.v = t.v := by
  apply Vector.ext
  intro k hk
  have := h (BitVec.ofNat 4 k)
  have e : k % 16 = k := Nat.mod_eq_of_lt hk
  simpa [State.getV, e] using this

/-! ### Memory on the state -/

theorem State.readMem_writeMem {s : State} (hwf : Memory.wf s.mem = true) (a c : Addr) (b : Byte) :
    (s.writeMem a b).readMem c = if c = a then b else s.readMem c :=
  Memory.read_write hwf a c b

theorem State.wf_writeMem {s : State} (hwf : Memory.wf s.mem = true) (a : Addr) (b : Byte) :
    Memory.wf (s.writeMem a b).mem = true :=
  Memory.wf_write hwf a b

theorem State.dataAddr_toNat (s : State) (k : Nat) : (s.dataAddr k).toNat = (s.i.toNat + k) % 4096 := A12_toNat _

/-- The bytes of one access lie at distinct addresses. -/
theorem State.dataAddr_inj (s : State) {j k : Nat} (hj : j < 4096) (hk : k < 4096) (h : s.dataAddr j = s.dataAddr k) :
    j = k := by
  have := congrArg BitVec.toNat h
  rw [State.dataAddr_toNat, State.dataAddr_toNat] at this
  omega

/-! ### Register blocks (R164, R165) -/

/-- A stored block changes memory only. -/
theorem State.storeBlock_eq (s : State) (n : Nat) : s.storeBlock n = { s with mem := (s.storeBlock n).mem } := by
  induction n with
  | zero => rfl
  | succ k ih => rw [State.storeBlock, State.writeMem]; simp only; rw [ih]

@[simp] theorem State.storeBlock_v (s : State) (n : Nat) : (s.storeBlock n).v = s.v := by rw [State.storeBlock_eq]
@[simp] theorem State.storeBlock_i (s : State) (n : Nat) : (s.storeBlock n).i = s.i := by rw [State.storeBlock_eq]
@[simp] theorem State.storeBlock_pc (s : State) (n : Nat) : (s.storeBlock n).pc = s.pc := by rw [State.storeBlock_eq]
@[simp] theorem State.storeBlock_dt (s : State) (n : Nat) : (s.storeBlock n).dt = s.dt := by rw [State.storeBlock_eq]
@[simp] theorem State.storeBlock_st (s : State) (n : Nat) : (s.storeBlock n).st = s.st := by rw [State.storeBlock_eq]
@[simp] theorem State.storeBlock_stack (s : State) (n : Nat) : (s.storeBlock n).stack = s.stack := by rw [State.storeBlock_eq]
@[simp] theorem State.storeBlock_fb (s : State) (n : Nat) : (s.storeBlock n).fb = s.fb := by rw [State.storeBlock_eq]
@[simp] theorem State.storeBlock_wait (s : State) (n : Nat) : (s.storeBlock n).wait = s.wait := by rw [State.storeBlock_eq]
@[simp] theorem State.storeBlock_keys (s : State) (n : Nat) : (s.storeBlock n).keys = s.keys := by rw [State.storeBlock_eq]
@[simp] theorem State.storeBlock_fault (s : State) (n : Nat) : (s.storeBlock n).fault = s.fault := by rw [State.storeBlock_eq]
@[simp] theorem State.storeBlock_out (s : State) (n : Nat) : (s.storeBlock n).out = s.out := by rw [State.storeBlock_eq]
@[simp] theorem State.storeBlock_draws (s : State) (n : Nat) : (s.storeBlock n).draws = s.draws := by rw [State.storeBlock_eq]
@[simp] theorem State.storeBlock_schedule (s : State) (n : Nat) : (s.storeBlock n).schedule = s.schedule := by rw [State.storeBlock_eq]
@[simp] theorem State.storeBlock_launched (s : State) (n : Nat) : (s.storeBlock n).launched = s.launched := by rw [State.storeBlock_eq]
@[simp] theorem State.storeBlock_getV (s : State) (n : Nat) (r : Reg) : (s.storeBlock n).getV r = s.getV r := by
  rw [State.storeBlock_eq]; rfl
@[simp] theorem State.storeBlock_dataAddr (s : State) (n k : Nat) : (s.storeBlock n).dataAddr k = s.dataAddr k := by
  rw [State.storeBlock_eq]; rfl

theorem State.wf_storeBlock {s : State} (hwf : Memory.wf s.mem = true) (n : Nat) :
    Memory.wf (s.storeBlock n).mem = true := by
  induction n with
  | zero => exact hwf
  | succ k ih => exact State.wf_writeMem ih _ _

/-- Outside the block memory reads as before. -/
theorem State.readMem_storeBlock_of_ne {s : State} (hwf : Memory.wf s.mem = true) {n : Nat} {a : Addr}
    (h : ∀ k < n, a ≠ s.dataAddr k) : (s.storeBlock n).readMem a = s.readMem a := by
  induction n with
  | zero => rfl
  | succ k ih =>
    rw [State.storeBlock, State.readMem_writeMem (State.wf_storeBlock hwf k), if_neg (h k (by omega))]
    exact ih fun j hj => h j (by omega)

/-- Inside the block memory reads as the register stored there. -/
theorem State.readMem_storeBlock {s : State} (hwf : Memory.wf s.mem = true) {n k : Nat} (hn : n ≤ 4096) (hk : k < n) :
    (s.storeBlock n).readMem (s.dataAddr k) = s.getV (blockReg k) := by
  induction n with
  | zero => omega
  | succ m ih =>
    rw [State.storeBlock, State.readMem_writeMem (State.wf_storeBlock hwf m)]
    by_cases h : k = m
    · rw [if_pos (by rw [h]), h]
    · rw [if_neg fun e => h (s.dataAddr_inj (by omega) (by omega) e)]
      exact ih (by omega) (by omega)

/-- A loaded block changes registers only. -/
theorem State.loadBlock_eq (s : State) (n : Nat) : s.loadBlock n = { s with v := (s.loadBlock n).v } := by
  induction n with
  | zero => rfl
  | succ k ih => rw [State.loadBlock, State.setV]; simp only; rw [ih]

@[simp] theorem State.loadBlock_i (s : State) (n : Nat) : (s.loadBlock n).i = s.i := by rw [State.loadBlock_eq]
@[simp] theorem State.loadBlock_pc (s : State) (n : Nat) : (s.loadBlock n).pc = s.pc := by rw [State.loadBlock_eq]
@[simp] theorem State.loadBlock_dt (s : State) (n : Nat) : (s.loadBlock n).dt = s.dt := by rw [State.loadBlock_eq]
@[simp] theorem State.loadBlock_st (s : State) (n : Nat) : (s.loadBlock n).st = s.st := by rw [State.loadBlock_eq]
@[simp] theorem State.loadBlock_stack (s : State) (n : Nat) : (s.loadBlock n).stack = s.stack := by rw [State.loadBlock_eq]
@[simp] theorem State.loadBlock_mem (s : State) (n : Nat) : (s.loadBlock n).mem = s.mem := by rw [State.loadBlock_eq]
@[simp] theorem State.loadBlock_fb (s : State) (n : Nat) : (s.loadBlock n).fb = s.fb := by rw [State.loadBlock_eq]
@[simp] theorem State.loadBlock_wait (s : State) (n : Nat) : (s.loadBlock n).wait = s.wait := by rw [State.loadBlock_eq]
@[simp] theorem State.loadBlock_keys (s : State) (n : Nat) : (s.loadBlock n).keys = s.keys := by rw [State.loadBlock_eq]
@[simp] theorem State.loadBlock_fault (s : State) (n : Nat) : (s.loadBlock n).fault = s.fault := by rw [State.loadBlock_eq]
@[simp] theorem State.loadBlock_out (s : State) (n : Nat) : (s.loadBlock n).out = s.out := by rw [State.loadBlock_eq]
@[simp] theorem State.loadBlock_draws (s : State) (n : Nat) : (s.loadBlock n).draws = s.draws := by rw [State.loadBlock_eq]
@[simp] theorem State.loadBlock_schedule (s : State) (n : Nat) : (s.loadBlock n).schedule = s.schedule := by rw [State.loadBlock_eq]
@[simp] theorem State.loadBlock_launched (s : State) (n : Nat) : (s.loadBlock n).launched = s.launched := by rw [State.loadBlock_eq]
@[simp] theorem State.loadBlock_readMem (s : State) (n : Nat) (a : Addr) : (s.loadBlock n).readMem a = s.readMem a := by
  rw [State.loadBlock_eq]; rfl
@[simp] theorem State.loadBlock_dataAddr (s : State) (n k : Nat) : (s.loadBlock n).dataAddr k = s.dataAddr k := by
  rw [State.loadBlock_eq]; rfl

theorem blockReg_toNat {k : Nat} (hk : k < 16) : (blockReg k).toNat = k := by
  simp [blockReg, Nat.mod_eq_of_lt hk]

@[simp] theorem blockReg_toNat_self (x : Reg) : blockReg x.toNat = x := by simp [blockReg]

/-- A loaded block's registers hold the bytes from `I` on, the others what they held. -/
theorem State.getV_loadBlock (s : State) {n : Nat} (hn : n ≤ 16) (r : Reg) :
    (s.loadBlock n).getV r = if r.toNat < n then s.readMem (s.dataAddr r.toNat) else s.getV r := by
  induction n with
  | zero => rfl
  | succ k ih =>
    have hr : r = blockReg k ↔ r.toNat = k := by rw [← BitVec.toNat_inj, blockReg_toNat (by omega)]
    rw [State.loadBlock, State.getV_setV, ih (by omega)]
    by_cases h : r.toNat = k
    · rw [if_pos (hr.2 h), if_pos (by omega), h]
    · rw [if_neg fun e => h (hr.1 e)]
      exact if_congr (by omega) rfl rfl

/-! ### Fetch (R71) -/

theorem State.fetch_toNat (s : State) :
    s.fetch.toNat = (s.readMem (A12 s.pc.toNat)).toNat * 256 + (s.readMem (A12 (s.pc.toNat + 1))).toNat :=
  toNat_wordOfBytes _ _

/-! ### Framebuffer (R29) -/

/-- A cell after one cell was turned over. -/
theorem Framebuffer.cell_toggle (fb : Framebuffer) {row col row' col' : Nat} (hr : row < 32) (hc : col < 64) :
    Framebuffer.cell (Framebuffer.toggle fb row col) row' col' =
      (Framebuffer.cell fb row' col' ^^ decide (row' = row ∧ col' = col)) := by
  unfold Framebuffer.toggle Framebuffer.cell
  by_cases hr' : row' < 32
  · rw [dif_pos hr, dif_pos hr', dif_pos hr']
    by_cases e : row = row'
    · subst e; simp [BitVec.getLsbD_twoPow, hc, eq_comm]
    · rw [Vector.getElem_set_ne _ _ e]; simp [Ne.symm e]
  · rw [dif_neg hr', dif_neg hr']
    have e : row' ≠ row := fun e => hr' (e ▸ hr)
    simp [e]

/-- A cell of the clear screen. -/
@[simp] theorem Framebuffer.cell_allOff (row col : Nat) : Framebuffer.cell Framebuffer.allOff row col = false := by
  simp [Framebuffer.cell, Framebuffer.allOff]

/-- The linear index of a cell (R29, R194). -/
theorem Framebuffer.bitAt_index (fb : Framebuffer) {row col : Nat} (hc : col < 64) :
    fb.bitAt (row * 64 + col) = fb.cell row col := by
  rw [Framebuffer.bitAt, Config.fbWidth, show (row * 64 + col) / 64 = row by omega,
    show (row * 64 + col) % 64 = col by omega]

/-- Two framebuffers with the same cells are the same. -/
theorem Framebuffer.ext_cell {f g : Framebuffer}
    (h : ∀ row < 32, ∀ col < 64, Framebuffer.cell f row col = Framebuffer.cell g row col) : f = g := by
  apply Vector.ext
  intro row hrow
  apply BitVec.eq_of_getLsbD_eq
  intro col hcol
  have := h row hrow col hcol
  rwa [Framebuffer.cell, Framebuffer.cell, dif_pos hrow, dif_pos hrow] at this

/-! ### The poll of a key wait (R214) -/

theorem State.pollKey_none {s : State} (h : s.keys.lastReleased = none) (x : Reg) : s.pollKey x = s := by
  rw [State.pollKey, h]

theorem State.pollKey_some {s : State} {key : Key} (h : s.keys.lastReleased = some key) (x : Reg) :
    s.pollKey x = ((s.clearReleased.setV x (zextKey key)).setWait .idle).advance := by
  rw [State.pollKey, h]

end Sys2Proof.Machine
end

