-- ==== Sys2Proof/Laws/Display.lean ====
section
/-! SUPPORT. What drawing does, said once for a sprite row and for a sprite: which cells it turns over, and when it reports
a collision (43_display.md R191, R192). -/

namespace Sys2Proof.Machine

/-- A 1 bit among the first `n` columns of a sprite row falls on the cell. -/
def ColumnsCover (bits : Byte) (row ox n r c : Nat) : Prop :=
  r = row ∧ ∃ k < n, bits.getLsbD (7 - k) = true ∧ c = (ox + k) % 64

/-- A 1 bit among the first `n` rows of the sprite at `I` falls on the cell. -/
def RowsCover (s : State) (ox oy n r c : Nat) : Prop :=
  ∃ k < n, ColumnsCover (s.readMem (s.dataAddr k)) ((oy + k) % 32) ox 8 r c

theorem columnsCover_succ (bits : Byte) (row ox n r c : Nat) :
    ColumnsCover bits row ox (n + 1) r c ↔
      ColumnsCover bits row ox n r c ∨ (r = row ∧ bits.getLsbD (7 - n) = true ∧ c = (ox + n) % 64) := by
  constructor
  · rintro ⟨hr, k, hk, hb, hc⟩
    by_cases h : k = n
    · subst h; exact .inr ⟨hr, hb, hc⟩
    · exact .inl ⟨hr, k, by omega, hb, hc⟩
  · rintro (⟨hr, k, hk, hb, hc⟩ | ⟨hr, hb, hc⟩)
    · exact ⟨hr, k, by omega, hb, hc⟩
    · exact ⟨hr, n, by omega, hb, hc⟩

theorem rowsCover_succ (s : State) (ox oy n r c : Nat) :
    RowsCover s ox oy (n + 1) r c ↔
      RowsCover s ox oy n r c ∨ ColumnsCover (s.readMem (s.dataAddr n)) ((oy + n) % 32) ox 8 r c := by
  constructor
  · rintro ⟨k, hk, h⟩
    by_cases e : k = n
    · subst e; exact .inr h
    · exact .inl ⟨k, by omega, h⟩
  · rintro (⟨k, hk, h⟩ | h)
    · exact ⟨k, by omega, h⟩
    · exact ⟨n, by omega, h⟩

/-- One sprite row: it turns over exactly the covered cells, and its collision is a covered cell that was on. -/
theorem drawColumns_spec (fb : Framebuffer) (hit : Bool) (bits : Byte) (row ox n : Nat) (hn : n ≤ 8) (hrow : row < 32) :
    (∀ r < 32, ∀ c < 64, (Framebuffer.cell (drawColumns (fb, hit) bits row ox n).1 r c = true ↔
        ¬ (Framebuffer.cell fb r c = true ↔ ColumnsCover bits row ox n r c))) ∧
      ((drawColumns (fb, hit) bits row ox n).2 = true ↔
        hit = true ∨ ∃ r < 32, ∃ c < 64, ColumnsCover bits row ox n r c ∧ Framebuffer.cell fb r c = true) := by
  induction n with
  | zero => simp [drawColumns, ColumnsCover]
  | succ n ih =>
    obtain ⟨ihCell, ihHit⟩ := ih (by omega)
    have hcol : (ox + n) % 64 < 64 := by omega
    have hfresh : ¬ ColumnsCover bits row ox n row ((ox + n) % 64) := by
      rintro ⟨_, k, hk, _, hc⟩; omega
    by_cases hb : bits.getLsbD (7 - n) = true
    · have e : drawColumns (fb, hit) bits row ox (n + 1) =
          (Framebuffer.toggle (drawColumns (fb, hit) bits row ox n).1 row ((ox + n) % 64),
            (drawColumns (fb, hit) bits row ox n).2 ||
              Framebuffer.cell (drawColumns (fb, hit) bits row ox n).1 row ((ox + n) % 64)) := by
        rw [drawColumns, drawPixel, if_pos hb]; rfl
      have hhere := ihCell row hrow _ hcol
      simp only [hfresh, iff_false, not_not] at hhere
      rw [e]
      refine ⟨fun r hr c hc => ?_, ?_⟩
      · simp only [Framebuffer.cell_toggle _ hrow hcol, columnsCover_succ, hb, true_and]
        by_cases hx : r = row ∧ c = (ox + n) % 64
        · obtain ⟨rfl, rfl⟩ := hx
          rw [Bool.eq_iff_iff.2 hhere]; simp [hfresh]
        · simp [hx, ihCell r hr c hc]
      · simp only [Bool.or_eq_true, ihHit, columnsCover_succ, hb, true_and]
        rw [hhere]
        constructor
        · rintro ((h | ⟨r, hr, c, hc, h1, h2⟩) | h)
          · exact .inl h
          · exact .inr ⟨r, hr, c, hc, .inl h1, h2⟩
          · exact .inr ⟨row, hrow, _, hcol, .inr ⟨rfl, rfl⟩, h⟩
        · rintro (h | ⟨r, hr, c, hc, h1 | ⟨rfl, rfl⟩, h2⟩)
          · exact .inl (.inl h)
          · exact .inl (.inr ⟨r, hr, c, hc, h1, h2⟩)
          · exact .inr h2
    · have e : drawColumns (fb, hit) bits row ox (n + 1) = drawColumns (fb, hit) bits row ox n := by
        rw [drawColumns, drawPixel, if_neg hb]
      have hsame : ∀ r c, ColumnsCover bits row ox (n + 1) r c ↔ ColumnsCover bits row ox n r c := by
        intro r c; rw [columnsCover_succ]; exact or_iff_left fun h => hb h.2.1
      rw [e]; simp only [hsame]; exact ⟨ihCell, ihHit⟩

/-- The whole sprite, of at most 32 rows: it turns over exactly the covered cells, and its collision is a covered cell that
was on. -/
theorem State.drawRows_spec (s : State) (ox oy n : Nat) (hn : n ≤ 32) :
    (∀ r < 32, ∀ c < 64, (Framebuffer.cell (s.drawRows ox oy n).1 r c = true ↔
        ¬ (Framebuffer.cell s.fb r c = true ↔ RowsCover s ox oy n r c))) ∧
      ((s.drawRows ox oy n).2 = true ↔
        ∃ r < 32, ∃ c < 64, RowsCover s ox oy n r c ∧ Framebuffer.cell s.fb r c = true) := by
  induction n with
  | zero => simp [State.drawRows, RowsCover]
  | succ n ih =>
    obtain ⟨ihCell, ihHit⟩ := ih (by omega)
    obtain ⟨rowCell, rowHit⟩ := drawColumns_spec (s.drawRows ox oy n).1 (s.drawRows ox oy n).2 (s.readMem (s.dataAddr n))
      ((oy + n) % 32) ox 8 le_rfl (by omega)
    have hdisjoint : ∀ r c, ColumnsCover (s.readMem (s.dataAddr n)) ((oy + n) % 32) ox 8 r c → ¬ RowsCover s ox oy n r c := by
      rintro r c ⟨h1, _⟩ ⟨k, hk, h2, _⟩; omega
    rw [State.drawRows]; simp only [Config.fbHeight]
    refine ⟨fun r hr c hc => ?_, ?_⟩
    · have hd := hdisjoint r c
      rw [rowCell r hr c hc, ihCell r hr c hc, rowsCover_succ]
      generalize RowsCover s ox oy n r c = A at hd ⊢
      generalize ColumnsCover (s.readMem (s.dataAddr n)) ((oy + n) % 32) ox 8 r c = B at hd ⊢
      generalize (Framebuffer.cell s.fb r c = true) = C
      clear rowCell rowHit ihCell ihHit hdisjoint
      tauto
    · rw [rowHit, ihHit]
      have hon : ∀ r < 32, ∀ c < 64, ColumnsCover (s.readMem (s.dataAddr n)) ((oy + n) % 32) ox 8 r c →
          (Framebuffer.cell (s.drawRows ox oy n).1 r c = true ↔ Framebuffer.cell s.fb r c = true) := by
        intro r hr c hc h
        rw [ihCell r hr c hc, iff_false_right (hdisjoint r c h), not_not]
      constructor
      · rintro (⟨r, hr, c, hc, h1, h2⟩ | ⟨r, hr, c, hc, h1, h2⟩)
        · exact ⟨r, hr, c, hc, (rowsCover_succ ..).2 (.inl h1), h2⟩
        · exact ⟨r, hr, c, hc, (rowsCover_succ ..).2 (.inr h1), (hon r hr c hc h1).1 h2⟩
      · rintro ⟨r, hr, c, hc, h1, h2⟩
        rcases (rowsCover_succ ..).1 h1 with h1 | h1
        · exact .inl ⟨r, hr, c, hc, h1, h2⟩
        · exact .inr ⟨r, hr, c, hc, h1, (hon r hr c hc h1).2 h2⟩

end Sys2Proof.Machine
end

