-- ==== Sys2Proof/Laws/PerInstr.lean ====
section
/-! SUPPORT. For each constructor of Instr: the encoder's word lies in the instruction's row of spec/opcode_table.json. -/

namespace Sys2Proof.Laws

/-- An operative instruction's word matches the row of its variant (the no-op has no row of its own to match). -/
def MatchesRow.Statement (i : Instr) : Prop :=
  i.variant = .nop ∨ ∃ row ∈ opcodeRows, row.variant = i.variant ∧ rowMatches row (encode i) = true

/-- A row found, from the encoder's word under the row's mask. -/
theorem matchesRow_of_masked (i : Instr) (row : OpcodeRow) (hrow : row ∈ opcodeRows) (hv : row.variant = i.variant)
    (h : encode i &&& row.mask = row.value) : MatchesRow.Statement i :=
  .inr ⟨row, hrow, hv, by simpa [rowMatches] using h⟩

theorem MatchesRow.cls : MatchesRow.Statement .cls :=
  matchesRow_of_masked _ ⟨.clearDisplay, 0x00E0, 0xFFFF⟩ (by decide) rfl rfl
theorem MatchesRow.ret : MatchesRow.Statement .ret :=
  matchesRow_of_masked _ ⟨.returnFromSubroutine, 0x00EE, 0xFFFF⟩ (by decide) rfl rfl
theorem MatchesRow.sys (nnn : Addr) : MatchesRow.Statement (.sys nnn) := .inl rfl
theorem MatchesRow.jp (nnn : Addr) : MatchesRow.Statement (.jp nnn) :=
  matchesRow_of_masked _ ⟨.jump, 0x1000, 0xF000⟩ (by decide) rfl ((formatA_maskF000 ..).trans (by decide))
theorem MatchesRow.call (nnn : Addr) : MatchesRow.Statement (.call nnn) :=
  matchesRow_of_masked _ ⟨.call, 0x2000, 0xF000⟩ (by decide) rfl ((formatA_maskF000 ..).trans (by decide))
theorem MatchesRow.seImm (x : Reg) (kk : Byte) : MatchesRow.Statement (.seImm x kk) :=
  matchesRow_of_masked _ ⟨.skipIfEqualImm, 0x3000, 0xF000⟩ (by decide) rfl ((formatXKK_maskF000 ..).trans (by decide))
theorem MatchesRow.sneImm (x : Reg) (kk : Byte) : MatchesRow.Statement (.sneImm x kk) :=
  matchesRow_of_masked _ ⟨.skipIfNotEqualImm, 0x4000, 0xF000⟩ (by decide) rfl ((formatXKK_maskF000 ..).trans (by decide))
theorem MatchesRow.seReg (x y : Reg) : MatchesRow.Statement (.seReg x y) :=
  matchesRow_of_masked _ ⟨.skipIfEqualReg, 0x5000, 0xF00F⟩ (by decide) rfl ((formatXYN_maskF00F ..).trans (by decide))
theorem MatchesRow.ldImm (x : Reg) (kk : Byte) : MatchesRow.Statement (.ldImm x kk) :=
  matchesRow_of_masked _ ⟨.loadInto, 0x6000, 0xF000⟩ (by decide) rfl ((formatXKK_maskF000 ..).trans (by decide))
theorem MatchesRow.addImm (x : Reg) (kk : Byte) : MatchesRow.Statement (.addImm x kk) :=
  matchesRow_of_masked _ ⟨.add, 0x7000, 0xF000⟩ (by decide) rfl ((formatXKK_maskF000 ..).trans (by decide))
theorem MatchesRow.ldReg (x y : Reg) : MatchesRow.Statement (.ldReg x y) :=
  matchesRow_of_masked _ ⟨.loadRegister, 0x8000, 0xF00F⟩ (by decide) rfl ((formatXYN_maskF00F ..).trans (by decide))
theorem MatchesRow.or (x y : Reg) : MatchesRow.Statement (.or x y) :=
  matchesRow_of_masked _ ⟨.or, 0x8001, 0xF00F⟩ (by decide) rfl ((formatXYN_maskF00F ..).trans (by decide))
theorem MatchesRow.and (x y : Reg) : MatchesRow.Statement (.and x y) :=
  matchesRow_of_masked _ ⟨.and, 0x8002, 0xF00F⟩ (by decide) rfl ((formatXYN_maskF00F ..).trans (by decide))
theorem MatchesRow.xor (x y : Reg) : MatchesRow.Statement (.xor x y) :=
  matchesRow_of_masked _ ⟨.xor, 0x8003, 0xF00F⟩ (by decide) rfl ((formatXYN_maskF00F ..).trans (by decide))
theorem MatchesRow.addReg (x y : Reg) : MatchesRow.Statement (.addReg x y) :=
  matchesRow_of_masked _ ⟨.addRegisters, 0x8004, 0xF00F⟩ (by decide) rfl ((formatXYN_maskF00F ..).trans (by decide))
theorem MatchesRow.sub (x y : Reg) : MatchesRow.Statement (.sub x y) :=
  matchesRow_of_masked _ ⟨.sub, 0x8005, 0xF00F⟩ (by decide) rfl ((formatXYN_maskF00F ..).trans (by decide))
theorem MatchesRow.shr (x y : Reg) : MatchesRow.Statement (.shr x y) :=
  matchesRow_of_masked _ ⟨.shiftRight, 0x8006, 0xF00F⟩ (by decide) rfl ((formatXYN_maskF00F ..).trans (by decide))
theorem MatchesRow.subn (x y : Reg) : MatchesRow.Statement (.subn x y) :=
  matchesRow_of_masked _ ⟨.subBorrow, 0x8007, 0xF00F⟩ (by decide) rfl ((formatXYN_maskF00F ..).trans (by decide))
theorem MatchesRow.shl (x y : Reg) : MatchesRow.Statement (.shl x y) :=
  matchesRow_of_masked _ ⟨.shiftLeft, 0x800E, 0xF00F⟩ (by decide) rfl ((formatXYN_maskF00F ..).trans (by decide))
theorem MatchesRow.sneReg (x y : Reg) : MatchesRow.Statement (.sneReg x y) :=
  matchesRow_of_masked _ ⟨.skipIfNotEqualReg, 0x9000, 0xF00F⟩ (by decide) rfl ((formatXYN_maskF00F ..).trans (by decide))
theorem MatchesRow.ldI (nnn : Addr) : MatchesRow.Statement (.ldI nnn) :=
  matchesRow_of_masked _ ⟨.loadIndex, 0xA000, 0xF000⟩ (by decide) rfl ((formatA_maskF000 ..).trans (by decide))
theorem MatchesRow.jpV0 (nnn : Addr) : MatchesRow.Statement (.jpV0 nnn) :=
  matchesRow_of_masked _ ⟨.jumpOffset, 0xB000, 0xF000⟩ (by decide) rfl ((formatA_maskF000 ..).trans (by decide))
theorem MatchesRow.rnd (x : Reg) (kk : Byte) : MatchesRow.Statement (.rnd x kk) :=
  matchesRow_of_masked _ ⟨.random, 0xC000, 0xF000⟩ (by decide) rfl ((formatXKK_maskF000 ..).trans (by decide))
theorem MatchesRow.drw (x y : Reg) (n : Nybble) : MatchesRow.Statement (.drw x y n) :=
  matchesRow_of_masked _ ⟨.draw, 0xD000, 0xF000⟩ (by decide) rfl ((formatXYN_maskF000 ..).trans (by decide))
theorem MatchesRow.skp (x : Reg) : MatchesRow.Statement (.skp x) :=
  matchesRow_of_masked _ ⟨.skipIfPressed, 0xE09E, 0xF0FF⟩ (by decide) rfl ((formatXKK_maskF0FF ..).trans (by decide))
theorem MatchesRow.sknp (x : Reg) : MatchesRow.Statement (.sknp x) :=
  matchesRow_of_masked _ ⟨.skipIfNotPressed, 0xE0A1, 0xF0FF⟩ (by decide) rfl ((formatXKK_maskF0FF ..).trans (by decide))
theorem MatchesRow.ldXDT (x : Reg) : MatchesRow.Statement (.ldXDT x) :=
  matchesRow_of_masked _ ⟨.loadDelay, 0xF007, 0xF0FF⟩ (by decide) rfl ((formatXKK_maskF0FF ..).trans (by decide))
theorem MatchesRow.ldK (x : Reg) : MatchesRow.Statement (.ldK x) :=
  matchesRow_of_masked _ ⟨.waitForKey, 0xF00A, 0xF0FF⟩ (by decide) rfl ((formatXKK_maskF0FF ..).trans (by decide))
theorem MatchesRow.ldDT (x : Reg) : MatchesRow.Statement (.ldDT x) :=
  matchesRow_of_masked _ ⟨.setDelay, 0xF015, 0xF0FF⟩ (by decide) rfl ((formatXKK_maskF0FF ..).trans (by decide))
theorem MatchesRow.ldST (x : Reg) : MatchesRow.Statement (.ldST x) :=
  matchesRow_of_masked _ ⟨.setSound, 0xF018, 0xF0FF⟩ (by decide) rfl ((formatXKK_maskF0FF ..).trans (by decide))
theorem MatchesRow.addI (x : Reg) : MatchesRow.Statement (.addI x) :=
  matchesRow_of_masked _ ⟨.addIndex, 0xF01E, 0xF0FF⟩ (by decide) rfl ((formatXKK_maskF0FF ..).trans (by decide))
theorem MatchesRow.ldF (x : Reg) : MatchesRow.Statement (.ldF x) :=
  matchesRow_of_masked _ ⟨.loadSpriteAddress, 0xF029, 0xF0FF⟩ (by decide) rfl ((formatXKK_maskF0FF ..).trans (by decide))
theorem MatchesRow.ldB (x : Reg) : MatchesRow.Statement (.ldB x) :=
  matchesRow_of_masked _ ⟨.loadBcd, 0xF033, 0xF0FF⟩ (by decide) rfl ((formatXKK_maskF0FF ..).trans (by decide))
theorem MatchesRow.ldMem (x : Reg) : MatchesRow.Statement (.ldMem x) :=
  matchesRow_of_masked _ ⟨.loadToMemory, 0xF055, 0xF0FF⟩ (by decide) rfl ((formatXKK_maskF0FF ..).trans (by decide))
theorem MatchesRow.ldXMem (x : Reg) : MatchesRow.Statement (.ldXMem x) :=
  matchesRow_of_masked _ ⟨.loadFromMemory, 0xF065, 0xF0FF⟩ (by decide) rfl ((formatXKK_maskF0FF ..).trans (by decide))
theorem MatchesRow.nop (word : Word) : MatchesRow.Statement (.nop word) := .inl rfl

end Sys2Proof.Laws
end

