-- ==== Sys2Proof/Laws/Step.lean ====
section
/-! SUPPORT. What exec and step can do, said once: the next state of every instruction, and the cases of a step. -/

namespace Sys2Proof.Machine

section
variable (s : State) (x y : Reg) (kk : Byte) (nnn : Addr) (n : Nybble) (w : Word)

theorem exec_cls : exec (.cls) s =
    .next (((s.setFB Framebuffer.allOff).emit .clear).advance) := rfl
theorem exec_sys : exec (.sys nnn) s =
    .next (s.advance) := rfl
theorem exec_nop : exec (.nop w) s =
    .next (s.advance) := rfl
theorem exec_jp : exec (.jp nnn) s =
    .next (s.setPC (zextAddr nnn)) := rfl
theorem exec_seImm : exec (.seImm x kk) s =
    .next (s.skipIf (s.getV x == kk)) := rfl
theorem exec_sneImm : exec (.sneImm x kk) s =
    .next (s.skipIf (s.getV x != kk)) := rfl
theorem exec_seReg : exec (.seReg x y) s =
    .next (s.skipIf (s.getV x == s.getV y)) := rfl
theorem exec_sneReg : exec (.sneReg x y) s =
    .next (s.skipIf (s.getV x != s.getV y)) := rfl
theorem exec_ldImm : exec (.ldImm x kk) s =
    .next ((s.setV x kk).advance) := rfl
theorem exec_addImm : exec (.addImm x kk) s =
    .next ((s.setV x (s.getV x + kk)).advance) := rfl
theorem exec_ldReg : exec (.ldReg x y) s =
    .next ((s.setV x (s.getV y)).advance) := rfl
theorem exec_or : exec (.or x y) s =
    .next ((s.setV x (s.getV x ||| s.getV y)).advance) := rfl
theorem exec_and : exec (.and x y) s =
    .next ((s.setV x (s.getV x &&& s.getV y)).advance) := rfl
theorem exec_xor : exec (.xor x y) s =
    .next ((s.setV x (s.getV x ^^^ s.getV y)).advance) := rfl
theorem exec_addReg : exec (.addReg x y) s =
    .next ((s.setVThenFlag x (s.getV x + s.getV y) (carryOf (s.getV x) (s.getV y))).advance) := rfl
theorem exec_sub : exec (.sub x y) s =
    .next ((s.setVThenFlag x (s.getV x - s.getV y) (noBorrowOf (s.getV x) (s.getV y))).advance) := rfl
theorem exec_shr : exec (.shr x y) s =
    .next ((s.setVThenFlag x (s.getV y >>> 1) (shiftedOutRight (s.getV y))).advance) := rfl
theorem exec_subn : exec (.subn x y) s =
    .next ((s.setVThenFlag x (s.getV y - s.getV x) (noBorrowOf (s.getV y) (s.getV x))).advance) := rfl
theorem exec_shl : exec (.shl x y) s =
    .next ((s.setVThenFlag x (s.getV y <<< 1) (shiftedOutLeft (s.getV y))).advance) := rfl
theorem exec_ldI : exec (.ldI nnn) s =
    .next ((s.setI (zextAddr nnn)).advance) := rfl
theorem exec_jpV0 : exec (.jpV0 nnn) s =
    .next (s.setPC (zextAddr nnn + zextByte (s.getV 0x0#4))) := rfl
theorem exec_rnd : exec (.rnd x kk) s =
    .next ((s.setV x (s.drawnByte &&& kk)).countDraw.advance) := rfl
theorem exec_drw : exec (.drw x y n) s =
    .next ((((s.setFB (s.drawRows (s.getV x).toNat (s.getV y).toNat n.toNat).1).setV VF (flagByte (s.drawRows (s.getV x).toNat (s.getV y).toNat n.toNat).2)).emit (.present (s.drawRows (s.getV x).toNat (s.getV y).toNat n.toNat).1)).advance) := rfl
theorem exec_skp : exec (.skp x) s =
    .next (s.skipIf (s.keyNamedDown (s.getV x))) := rfl
theorem exec_sknp : exec (.sknp x) s =
    .next (s.skipIf (!s.keyNamedDown (s.getV x))) := rfl
theorem exec_ldXDT : exec (.ldXDT x) s =
    .next ((s.setV x s.dt).advance) := rfl
theorem exec_ldK : exec (.ldK x) s =
    .next (s.clearReleased.setWait (.waiting x)) := rfl
theorem exec_ldDT : exec (.ldDT x) s =
    .next ((s.setDT (s.getV x)).advance) := rfl
theorem exec_ldST : exec (.ldST x) s =
    .next ((s.setST (s.getV x)).advance) := rfl
theorem exec_addI : exec (.addI x) s =
    .next ((s.setI (s.i + zextByte (s.getV x))).advance) := rfl
theorem exec_ldF : exec (.ldF x) s =
    .next ((s.setI (glyphAddr (s.getV x))).advance) := rfl
theorem exec_ldB : exec (.ldB x) s =
    .next ((((s.writeMem (s.dataAddr 0) (bcdHundreds (s.getV x))).writeMem (s.dataAddr 1) (bcdTens (s.getV x))).writeMem (s.dataAddr 2) (bcdOnes (s.getV x))).advance) := rfl
theorem exec_ldMem : exec (.ldMem x) s =
    .next ((s.storeBlock (x.toNat + 1)).advance) := rfl
theorem exec_ldXMem : exec (.ldXMem x) s =
    .next ((s.loadBlock (x.toNat + 1)).advance) := rfl

end

/-! ### RET and CALL, which may take a fault -/

theorem exec_ret_empty {s : State} (h : s.stack = []) : exec .ret s = .next (s.raiseFault .stackUnderflow .ret) := by
  simp [exec, execRet, h]

theorem exec_ret_push {s : State} {rest : List Word} {target : Word} (h : s.stack = rest ++ [target]) :
    exec .ret s = .next (s.dropTop.setPC target) := by
  simp [exec, execRet, h]

theorem exec_call_room {s : State} (h : s.stack.length < 16) (nnn : Addr) :
    exec (.call nnn) s = .next ((s.push (s.pc + 2)).setPC (zextAddr nnn)) := by
  simp [exec, execCall, Config.stackDepth, h]

theorem exec_call_full {s : State} (h : ¬ s.stack.length < 16) (nnn : Addr) :
    exec (.call nnn) s = .next (s.raiseFault .stackOverflow (.call nnn)) := by
  simp [exec, execCall, Config.stackDepth, h]

/-- The cases of RET: a fault on the empty stack, else the newest entry is popped into pc. -/
theorem exec_ret_cases {s t : State} (h : exec .ret s = .next t) :
    (s.stack = [] ∧ t = s.raiseFault .stackUnderflow .ret) ∨
      ∃ rest target, s.stack = rest ++ [target] ∧ t = s.dropTop.setPC target := by
  rcases List.eq_nil_or_concat s.stack with he | ⟨rest, target, he⟩
  · rw [exec_ret_empty he] at h; exact .inl ⟨he, by injection h with h; exact h.symm⟩
  · rw [List.concat_eq_append] at he
    rw [exec_ret_push he] at h; exact .inr ⟨rest, target, he, by injection h with h; exact h.symm⟩

/-- The cases of CALL: a push and a jump, or a fault on the full stack. -/
theorem exec_call_cases {s t : State} {nnn : Addr} (h : exec (.call nnn) s = .next t) :
    (s.stack.length < 16 ∧ t = (s.push (s.pc + 2)).setPC (zextAddr nnn)) ∨
      (¬ s.stack.length < 16 ∧ t = s.raiseFault .stackOverflow (.call nnn)) := by
  by_cases hl : s.stack.length < 16
  · rw [exec_call_room hl] at h; exact .inl ⟨hl, by injection h with h; exact h.symm⟩
  · rw [exec_call_full hl] at h; exact .inr ⟨hl, by injection h with h; exact h.symm⟩

/-- Every instruction answers a next state, from every state. -/
theorem exec_next (i : Instr) (s : State) : ∃ t, exec i s = .next t := by
  cases i with
  | ret =>
    rcases List.eq_nil_or_concat s.stack with he | ⟨rest, target, he⟩
    · exact ⟨_, exec_ret_empty he⟩
    · exact ⟨_, exec_ret_push (he.trans List.concat_eq_append)⟩
  | call nnn =>
    by_cases hl : s.stack.length < 16
    · exact ⟨_, exec_call_room hl nnn⟩
    · exact ⟨_, exec_call_full hl nnn⟩
  | _ => exact ⟨_, rfl⟩

/-! ### The cases of a step -/

/-- Before a ROM has been loaded the engine has no run (R272). -/
theorem engineStep_of_not_launched {s : State} (h : s.launched = false) : engineStep s = .refused .notLaunched := by
  rw [engineStep, h]

/-- An engine step that runs an instruction (R70). -/
theorem engineStep_idle {s : State} (hl : s.launched = true) (hf : s.fault = none) (hw : s.wait = .idle) :
    engineStep s = exec (decode s.fetch) s := by
  simp only [engineStep, hl, hf, hw]

/-- An engine step that polls for a key (R214). -/
theorem engineStep_waiting {s : State} {x : Reg} (hl : s.launched = true) (hf : s.fault = none)
    (hw : s.wait = .waiting x) : engineStep s = .next (s.pollKey x) := by
  simp only [engineStep, hl, hf, hw]

/-- What an engine step that answers a next state has done (R70): a poll, or the decoded instruction. -/
theorem engineStep_cases {s t : State} (h : engineStep s = .next t) :
    s.launched = true ∧ s.fault = none ∧
      ((∃ x, s.wait = .waiting x ∧ t = s.pollKey x) ∨ (s.wait = .idle ∧ exec (decode s.fetch) s = .next t)) := by
  unfold engineStep at h
  split at h
  · cases h
  · split at h
    · cases h
    · refine ⟨‹_›, ‹_›, ?_⟩
      split at h
      · exact .inl ⟨_, ‹_›, by injection h with h; exact h.symm⟩
      · exact .inr ⟨‹_›, h⟩

/-- What a step that answers a next state has done (R10, R70): one host event, or one engine step, with the turn taken off
the schedule. -/
theorem step_cases {s t : State} (h : step s = .next t) :
    (∃ e rest, s.schedule = .host e :: rest ∧ t = State.applyEvent { s with schedule := rest } e) ∨
      ∃ rest, (s.schedule = .engine :: rest ∨ (s.schedule = [] ∧ rest = [])) ∧
        engineStep { s with schedule := rest } = .next t := by
  unfold step at h
  split at h
  · rename_i hs
    refine .inr ⟨[], .inr ⟨hs, rfl⟩, ?_⟩
    rwa [show ({ s with schedule := [] } : State) = s by rw [← hs]]
  · exact .inr ⟨_, .inl ‹_›, h⟩
  · exact .inl ⟨_, _, ‹_›, by injection h with h; exact h.symm⟩

/-- With no turns listed a step is an engine step. -/
theorem step_of_nil {s : State} (h : s.schedule = []) : step s = engineStep s := by
  rw [step, h]

theorem step_of_engine {s : State} {rest : List Turn} (h : s.schedule = .engine :: rest) :
    step s = engineStep { s with schedule := rest } := by
  rw [step, h]

theorem step_of_host {s : State} {e : HostEvent} {rest : List Turn} (h : s.schedule = .host e :: rest) :
    step s = .next (State.applyEvent { s with schedule := rest } e) := by
  rw [step, h]

/-! ### A tick, and the memory after FX33 -/

/-- A Tick with no fault takes both timers down (R220). -/
theorem State.tick_of_no_fault {s : State} (h : s.fault = none) :
    s.tick = (s.setDT (countDown s.dt)).setST (countDown s.st) := by
  rw [State.tick, h]

/-- A Tick in the faulted state changes nothing (R243). -/
theorem State.tick_of_fault {s : State} {record : FaultRecord} (h : s.fault = some record) : s.tick = s := by
  rw [State.tick, h]

/-- Every byte of memory after FX33: a digit at its address, else as before. -/
theorem readMem_of_exec_ldB {s t : State} {x : Reg} (hwf : Memory.wf s.mem = true) (h : exec (.ldB x) s = .next t)
    (a : Addr) :
    t.readMem a = if a = s.dataAddr 2 then bcdOnes (s.getV x) else if a = s.dataAddr 1 then bcdTens (s.getV x)
      else if a = s.dataAddr 0 then bcdHundreds (s.getV x) else s.readMem a := by
  cases h
  show State.readMem (State.writeMem _ _ _) a = _
  rw [State.readMem_writeMem (State.wf_writeMem (State.wf_writeMem hwf _ _) _ _),
    State.readMem_writeMem (State.wf_writeMem hwf _ _), State.readMem_writeMem hwf]

/-! ### The table's word where the next step fetches -/

theorem tableWord_of_lt {w : Nat} (h : w < 2 ^ 16) : tableWord 16 w = BitVec.ofNat 16 w := by
  rw [tableWord, Nat.mod_eq_of_lt h]

/-- Every word of the table decodes to the decoder's instruction for it. -/
theorem decodeTableWord_eq (nbits w : Nat) : decodeTableWord nbits w = some (decode (tableWord nbits w)) := by
  simp [decodeTableWord, decodeBytes]

/-- The placed word is the one fetched. -/
theorem State.fetch_withFetchWord {s : State} (hwf : Memory.wf s.mem = true) (nbits w : Nat) :
    (s.withFetchWord nbits w).fetch = tableWord nbits w := by
  have hne : A12 s.pc.toNat ≠ A12 (s.pc.toNat + 1) := by rw [Ne, A12_eq_iff]; omega
  show wordOfBytes (Memory.read (Memory.write (Memory.write s.mem _ _) _ _) (A12 s.pc.toNat))
    (Memory.read (Memory.write (Memory.write s.mem _ _) _ _) (A12 (s.pc.toNat + 1))) = _
  rw [Memory.read_write (Memory.wf_write hwf _ _), Memory.read_write (Memory.wf_write hwf _ _), Memory.read_write hwf,
    if_neg hne, if_pos rfl, if_pos rfl, wordOfBytes_bytes]

end Sys2Proof.Machine
end

