-- ==== Sys2Proof/Tests/Slice0.lean ====
section
/-! SUPPORT. Tests: well-formedness, decoding of words written out bit by bit from 30_encoding.md, one small step for each
instruction from 95_test_vectors.md (section named with each group), and witnesses for the statements' hypotheses. -/

namespace Sys2Proof.Tests

open Sys2Proof.Machine

/-! ### WellFormed: an ill-formed term for each check -/

theorem test_sys_refuses_word_of_cls : (Instr.sys 0x0E0#12).wellFormed = false := by decide
theorem test_sys_refuses_word_of_ret : (Instr.sys 0x0EE#12).wellFormed = false := by decide
theorem test_nop_refuses_operative_word : (Instr.nop 0x8014#16).wellFormed = false := by decide
theorem test_nop_refuses_word_of_sys : (Instr.nop 0x0123#16).wellFormed = false := by decide
theorem test_nop_accepts_unassigned_word : (Instr.nop 0x5121#16).wellFormed = true := by decide

/-! ### Decoding: each constructor's word, bit by bit (opcode_table.json, "encoding") -/

theorem test_decode_format_N :
    decode 0b0000000011100000#16 = .cls ∧ decode 0b0000000011101110#16 = .ret := by decide

theorem test_decode_format_A :
    decode 0b0000_000100100011#16 = .sys 0x123#12 ∧ decode 0b0001_001000110100#16 = .jp 0x234#12 ∧
    decode 0b0010_001100000000#16 = .call 0x300#12 ∧ decode 0b1010_001011110000#16 = .ldI 0x2F0#12 ∧
    decode 0b1011_001100000001#16 = .jpV0 0x301#12 := by decide

theorem test_decode_format_XKK :
    decode 0b0011_0011_01000010#16 = .seImm 3#4 0x42#8 ∧ decode 0b0100_0011_01000010#16 = .sneImm 3#4 0x42#8 ∧
    decode 0b0110_0001_00000101#16 = .ldImm 1#4 0x05#8 ∧ decode 0b0111_1110_10000001#16 = .addImm 14#4 0x81#8 ∧
    decode 0b1100_0011_00001111#16 = .rnd 3#4 0x0F#8 := by decide

theorem test_decode_format_XY :
    decode 0b0101_0001_0010_0000#16 = .seReg 1#4 2#4 ∧ decode 0b1001_0001_0010_0000#16 = .sneReg 1#4 2#4 ∧
    decode 0b1000_0001_0010_0000#16 = .ldReg 1#4 2#4 ∧ decode 0b1000_0001_0010_0001#16 = .or 1#4 2#4 ∧
    decode 0b1000_0001_0010_0010#16 = .and 1#4 2#4 ∧ decode 0b1000_0001_0010_0011#16 = .xor 1#4 2#4 ∧
    decode 0b1000_0001_0010_0100#16 = .addReg 1#4 2#4 ∧ decode 0b1000_0001_0010_0101#16 = .sub 1#4 2#4 ∧
    decode 0b1000_0001_0010_0110#16 = .shr 1#4 2#4 ∧ decode 0b1000_0001_0010_0111#16 = .subn 1#4 2#4 ∧
    decode 0b1000_0001_0010_1110#16 = .shl 1#4 2#4 := by decide

theorem test_decode_format_XYN : decode 0b1101_0001_0010_1111#16 = .drw 1#4 2#4 15#4 := by decide

theorem test_decode_format_X :
    decode 0b1110_0010_10011110#16 = .skp 2#4 ∧ decode 0b1110_0010_10100001#16 = .sknp 2#4 ∧
    decode 0b1111_0101_00000111#16 = .ldXDT 5#4 ∧ decode 0b1111_0011_00001010#16 = .ldK 3#4 ∧
    decode 0b1111_0101_00010101#16 = .ldDT 5#4 ∧ decode 0b1111_0101_00011000#16 = .ldST 5#4 ∧
    decode 0b1111_0010_00011110#16 = .addI 2#4 ∧ decode 0b1111_0100_00101001#16 = .ldF 4#4 ∧
    decode 0b1111_0001_00110011#16 = .ldB 1#4 ∧ decode 0b1111_0010_01010101#16 = .ldMem 2#4 ∧
    decode 0b1111_0010_01100101#16 = .ldXMem 2#4 := by decide

theorem test_decode_misses :
    decode 0x5121#16 = .nop 0x5121#16 ∧ decode 0x800F#16 = .nop 0x800F#16 ∧ decode 0x912F#16 = .nop 0x912F#16 ∧
    decode 0xE1A2#16 = .nop 0xE1A2#16 ∧ decode 0xF100#16 = .nop 0xF100#16 := by decide

theorem test_encode_gives_the_words_back :
    encode (.drw 1#4 2#4 15#4) = 0xD12F#16 ∧ encode (.ldXMem 2#4) = 0xF265#16 ∧ encode (.call 0x300#12) = 0x2300#16 ∧
    encode (.addImm 14#4 0x81#8) = 0x7E81#16 ∧ encode (.shl 1#4 2#4) = 0x812E#16 := by decide

theorem test_decodeBytes_rejects_one_byte : decodeBytes [0x12#8] = .error .fewerThanTwoBytes := by rfl

/-! ### Small states -/

/-- The reset machine launched with an empty ROM image. -/
def launchedReset : State := State.reset.hostReset []

/-- The reset machine with an instruction word at pc. -/
def holding (w : Nat) : State := State.reset.withFetchWord 16 w

/-- The state after one instruction. -/
def after (i : Instr) (s : State) : State :=
  match exec i s with
  | .next t => t
  | _ => State.reset

/-- The state after one step. -/
def stepped (s : State) : State :=
  match step s with
  | .next t => t
  | _ => State.reset

/-- The reset machine with two registers set. -/
def withV (x : Reg) (a : Byte) (y : Reg) (b : Byte) : State := (State.reset.setV x a).setV y b

/-! ### Fetch and step (section 2.2, 2.3) -/

theorem test_fetch_wraps_at_the_top :
    (((State.reset.setPC 0x0FFF#16).writeMem 0xFFF#12 0x12#8).writeMem 0x000#12 0x34#8).fetch = 0x1234#16 := by decide
theorem test_fetch_above_memory :
    (((State.reset.setPC 0x1001#16).writeMem 0x001#12 0x60#8).writeMem 0x002#12 0x05#8).fetch = 0x6005#16 := by decide
theorem test_step_at_odd_pc :
    let s := ((launchedReset.setPC 0x0201#16).writeMem 0x201#12 0x60#8).writeMem 0x202#12 0x05#8
    ((stepped s).getV 0#4, (stepped s).pc) = (0x05#8, 0x0203#16) := by decide
theorem test_nop_wraps_pc : (stepped (launchedReset.setPC 0xFFFE#16)).pc = 0x0000#16 := by decide
theorem test_sys_is_no_call : (stepped (holding 0x0123)).pc = 0x0202#16 ∧ (stepped (holding 0x0123)).stack = [] := by
  decide

/-! ### Control flow (section 2.3, 2.4) -/

theorem test_jp : (stepped (holding 0x1FFF)).pc = 0x0FFF#16 := by decide
theorem test_call_at_top_pushes_unmasked :
    let t := after (.call 0x300#12) (State.reset.setPC 0x0FFE#16)
    (t.stack, t.pc) = ([0x1000#16], 0x0300#16) := by decide
theorem test_call_overflow :
    let s := { State.reset with stack := List.replicate 16 0x0202#16 }
    after (.call 0x300#12) s = { s with fault := some ⟨.stackOverflow, 0x0200#16, 0x2300#16⟩ } := by decide
theorem test_call_with_room_for_one :
    (after (.call 0x300#12) { State.reset with stack := List.replicate 15 0x0202#16 }).stack.length = 16 := by decide
theorem test_ret_pops_newest :
    let t := after .ret { State.reset with stack := [0x0202#16, 0x0402#16] }
    (t.pc, t.stack) = (0x0402#16, [0x0202#16]) := by decide
theorem test_ret_underflow :
    stepped (holding 0x00EE) = { holding 0x00EE with fault := some ⟨.stackUnderflow, 0x0200#16, 0x00EE#16⟩ } := by decide
theorem test_jp_v0_keeps_carry : (after (.jpV0 0xFFF#12) (State.reset.setV 0#4 0x02#8)).pc = 0x1001#16 := by decide
theorem test_se_imm_skips : (after (.seImm 3#4 0x42#8) (State.reset.setV 3#4 0x42#8)).pc = 0x0204#16 := by decide
theorem test_se_imm_wraps :
    (after (.seImm 3#4 0x42#8) ((State.reset.setV 3#4 0x42#8).setPC 0xFFFE#16)).pc = 0x0002#16 := by decide
theorem test_sne_imm : (after (.sneImm 3#4 0x42#8) (State.reset.setV 3#4 0x42#8)).pc = 0x0202#16 := by decide
theorem test_se_reg : (after (.seReg 1#4 2#4) (withV 1#4 0x07#8 2#4 0x08#8)).pc = 0x0202#16 := by decide
theorem test_sne_reg : (after (.sneReg 1#4 2#4) (withV 1#4 0x07#8 2#4 0x08#8)).pc = 0x0204#16 := by decide

/-! ### Arithmetic and logic (section 2.5) -/

theorem test_ld_imm : (after (.ldImm 15#4 0xFF#8) State.reset).getV VF = 0xFF#8 := by decide
theorem test_add_imm_no_flag :
    let t := after (.addImm 0#4 0x01#8) (withV 0#4 0xFF#8 15#4 0x55#8)
    (t.getV 0#4, t.getV VF) = (0x00#8, 0x55#8) := by decide
theorem test_ld_reg : (after (.ldReg 1#4 2#4) (State.reset.setV 2#4 0x5A#8)).getV 1#4 = 0x5A#8 := by decide
theorem test_or :
    let t := after (.or 1#4 2#4) ((withV 1#4 0xF0#8 2#4 0x0F#8).setV VF 0x55#8)
    (t.getV 1#4, t.getV VF) = (0xFF#8, 0x55#8) := by decide
theorem test_and : (after (.and 1#4 2#4) (withV 1#4 0xF3#8 2#4 0x3F#8)).getV 1#4 = 0x33#8 := by decide
theorem test_xor : (after (.xor 1#4 2#4) (withV 1#4 0xFF#8 2#4 0x0F#8)).getV 1#4 = 0xF0#8 := by decide
theorem test_add_reg_carry :
    let t := after (.addReg 0#4 1#4) (withV 0#4 0xFA#8 1#4 0x0A#8)
    (t.getV 0#4, t.getV VF) = (0x04#8, 0x01#8) := by decide
theorem test_add_reg_into_vf : (after (.addReg 15#4 1#4) (withV 15#4 0x01#8 1#4 0x01#8)).getV VF = 0x00#8 := by decide
theorem test_sub_equal :
    let t := after (.sub 1#4 2#4) (withV 1#4 0x05#8 2#4 0x05#8)
    (t.getV 1#4, t.getV VF) = (0x00#8, 0x01#8) := by decide
theorem test_sub_borrow :
    let t := after (.sub 1#4 2#4) (withV 1#4 0x10#8 2#4 0x20#8)
    (t.getV 1#4, t.getV VF) = (0xF0#8, 0x00#8) := by decide
theorem test_shr_shifts_vy :
    let t := after (.shr 1#4 2#4) (withV 1#4 0xFF#8 2#4 0x05#8)
    (t.getV 1#4, t.getV VF, t.getV 2#4) = (0x02#8, 0x01#8, 0x05#8) := by decide
theorem test_subn :
    let t := after (.subn 1#4 2#4) (withV 1#4 0x20#8 2#4 0x10#8)
    (t.getV 1#4, t.getV VF) = (0xF0#8, 0x00#8) := by decide
theorem test_shl :
    let t := after (.shl 1#4 2#4) (State.reset.setV 2#4 0x81#8)
    (t.getV 1#4, t.getV VF) = (0x02#8, 0x01#8) := by decide
theorem test_shr_old_vf :
    let t := after (.shr 1#4 15#4) (State.reset.setV VF 0x03#8)
    (t.getV 1#4, t.getV VF) = (0x01#8, 0x01#8) := by decide
/-- "kk = 0x00 always gives 0, a deterministic result" (R143), whatever the drawn byte. -/
theorem test_rnd_zero_mask : (after (.rnd 3#4 0x00#8) (State.reset.setV 3#4 0x77#8)).getV 3#4 = 0x00#8 := by
  show (State.setV _ 3#4 (_ &&& 0x00#8)).v[3] = _
  rw [BitVec.and_zero]; decide

/-! ### Index register and memory (section 2.6, 2.7) -/

theorem test_ld_i : (after (.ldI 0x123#12) (State.reset.setI 0xFFFF#16)).i = 0x0123#16 := by decide
theorem test_add_i_wraps : (after (.addI 1#4) ((State.reset.setV 1#4 0x01#8).setI 0xFFFF#16)).i = 0x0000#16 := by decide
theorem test_add_i_above_memory :
    let t := after (.addI 2#4) (((State.reset.setV 2#4 0x02#8).setV VF 0x55#8).setI 0x0FFF#16)
    (t.i, t.getV VF) = (0x1001#16, 0x55#8) := by decide
theorem test_ld_f_low_nybble : (after (.ldF 4#4) (State.reset.setV 4#4 0x1A#8)).i = 0x0032#16 := by decide
theorem test_ld_b_wraps :
    (after (.ldB 1#4) ((State.reset.setV 1#4 123#8).setI 0x0FFE#16)).mem =
      [(0x000, 0x03#8), (0xFFE, 0x01#8), (0xFFF, 0x02#8)] := by decide
theorem test_ld_b_254 :
    (after (.ldB 1#4) ((State.reset.setV 1#4 254#8).setI 0x0300#16)).mem =
      [(0x300, 0x02#8), (0x301, 0x05#8), (0x302, 0x04#8)] := by decide
theorem test_ld_mem :
    let t := after (.ldMem 2#4) (((withV 0#4 0x01#8 1#4 0x02#8).setV 2#4 0x03#8).setI 0x0400#16)
    (t.mem, t.i) = ([(0x400, 0x01#8), (0x401, 0x02#8), (0x402, 0x03#8)], 0x0400#16) := by decide
theorem test_ld_x_mem :
    let t := after (.ldXMem 1#4) { (State.reset.setI 0x1000#16).setV 2#4 0x55#8 with mem := [(0, 0x07#8), (1, 0x08#8), (2, 9#8)] }
    (t.getV 0#4, t.getV 1#4, t.getV 2#4) = (0x07#8, 0x08#8, 0x55#8) := by decide

/-! ### Display (section 2.8) -/

theorem test_cls_emits_on_a_clear_screen :
    ((stepped (holding 0x00E0)).out, (stepped (holding 0x00E0)).fb) = ([.clear], Framebuffer.allOff) := by decide
theorem test_drw_row :
    let s := { (withV 1#4 62#8 2#4 0#8).setI 0x300#16 with mem := [(0x300, 0xC0#8)] }
    let t := after (.drw 1#4 2#4 1#4) s
    t.fb = Framebuffer.allOff.set 0 0xC000000000000000#64 ∧ t.getV VF = 0x00#8 ∧
      (after (.drw 1#4 2#4 1#4) t).fb = Framebuffer.allOff ∧ (after (.drw 1#4 2#4 1#4) t).getV VF = 0x01#8 := by decide
/-- Rows 30, 31, 0, 1, 2 of column 0 (vertical wrap); the origin is the old VF when y = 0xF. -/
theorem test_drw_wraps_rows :
    let s := { (withV 1#4 0#8 15#4 30#8).setI 0x300#16 with
      mem := [(0x300, 0x80#8), (0x301, 0x80#8), (0x302, 0x80#8), (0x303, 0x80#8), (0x304, 0x80#8)] }
    let t := after (.drw 1#4 15#4 5#4) s
    (t.fb.toList = [1#64, 1#64, 1#64] ++ List.replicate 27 0#64 ++ [1#64, 1#64]) ∧ t.out = [.present t.fb] ∧ t.getV VF = 0x00#8 := by decide

/-! ### Keys and timers (section 2.9) -/

/-- The reset machine with key 5 down and 3 in the slot. -/
def key5Down : State := (State.reset.release 3#4).press 5#4

theorem test_skp : (after (.skp 2#4) (key5Down.setV 2#4 0x05#8)).pc = 0x0204#16 := by decide
theorem test_skp_above_f : (after (.skp 2#4) (key5Down.setV 2#4 0x15#8)).pc = 0x0202#16 := by decide
theorem test_sknp : (after (.sknp 2#4) (key5Down.setV 2#4 0x05#8)).pc = 0x0202#16 := by decide
theorem test_sknp_above_f : (after (.sknp 2#4) (key5Down.setV 2#4 0x15#8)).pc = 0x0204#16 := by decide
theorem test_ld_k_first_step :
    let t := after (.ldK 3#4) key5Down
    (t.wait, t.keys.lastReleased, t.pc, t.report) = (.waiting 3#4, none, 0x0200#16, .blocked) := by decide
theorem test_ld_k_poll_takes_last_release :
    let t := stepped (((launchedReset.setWait (.waiting 15#4)).release 3#4).release 10#4)
    (t.getV VF, t.wait, t.keys.lastReleased, t.pc) = (0x0A#8, .idle, none, 0x0202#16) := by decide
theorem test_ld_x_dt : (after (.ldXDT 5#4) (State.reset.setDT 0x3C#8)).getV 5#4 = 0x3C#8 := by decide
theorem test_ld_dt : (after (.ldDT 5#4) (State.reset.setV 5#4 0x3C#8)).dt = 0x3C#8 := by decide
theorem test_ld_st : (after (.ldST 5#4) (State.reset.setV 5#4 0x10#8)).st = 0x10#8 := by decide
theorem test_tick : ((((State.reset.setDT 0x00#8).setST 0x05#8).tick).dt, (((State.reset.setDT 0x00#8).setST 0x05#8).tick).st) =
    (0x00#8, 0x04#8) := by decide
theorem test_tick_after_fault : ((State.reset.setDT 0x05#8).raiseFault .stackUnderflow .ret).tick.dt = 0x05#8 := by decide

/-! ### Reset and load (section 2.10) -/

theorem test_reset_leaves_the_fault :
    let t := ((State.reset.setDT 0x05#8).raiseFault .stackUnderflow .ret).hostReset [0x12#8]
    (t.fault, t.dt, t.fetch) = (none, 0x00#8, 0x1200#16) := by decide

/-! ### Witnesses: a state and operands that meet each statement's hypotheses -/

theorem witness_DecodeEncodeRoundTrip : (Instr.nop 0x5121#16).wellFormed = true ∧ (Instr.sys 0x123#12).wellFormed = true ∧
    (Instr.drw 15#4 0#4 15#4).wellFormed = true := by decide
theorem witness_FamilyZeroMatchesWholeWords :
    (0x0FFF#16).toNat ≤ 0x0FFF ∧ 0x0FFF#16 ≠ 0x00E0#16 ∧ 0x0FFF#16 ≠ 0x00EE#16 := by decide
theorem witness_StepRunsDecodedInstruction :
    let s := { holding 0x8014 with schedule := [.engine, .host .tick] }
    s.fault = none ∧ s.wait = .idle ∧ EngineMoves s [.host .tick] ∧
      decode (wordOfBytes (s.readMem (A12 s.pc.toNat)) (s.readMem (A12 (s.pc.toNat + 1)))) = .addReg 0#4 1#4 :=
  ⟨rfl, rfl, ⟨rfl, .inl rfl⟩, by decide⟩
theorem witness_StepRunsDecodedInstruction_no_schedule : EngineMoves (holding 0x8014) [] := ⟨rfl, .inr ⟨rfl, rfl⟩⟩
theorem witness_HostTurnTakesOneEvent (e : HostEvent) (rest : List Turn) :
    ({ State.reset with schedule := .host e :: rest } : State).schedule = .host e :: rest := rfl
/-- A faulted machine: RET on the empty stack at reset. -/
def faultedAtReset : State := launchedReset.raiseFault .stackUnderflow .ret
theorem witness_StepStopsOnlyWhenFaultedOrNotLaunched :
    faultedAtReset.fault = some ⟨.stackUnderflow, 0x0200#16, 0x00EE#16⟩ ∧ EngineMoves faultedAtReset [] :=
  ⟨by decide, rfl, .inr ⟨rfl, rfl⟩⟩
theorem witness_StepStopsOnlyWhenFaultedOrNotLaunched_at_start :
    State.reset.launched = false ∧ EngineTurn State.reset [] := ⟨rfl, .inr ⟨rfl, rfl⟩⟩
theorem witness_OnlyResetLeavesFaultedState (e : HostEvent) :
    let s := { faultedAtReset with schedule := [.host e] }
    s.fault = some ⟨.stackUnderflow, 0x0200#16, 0x00EE#16⟩ ∧ s.schedule = .host e :: [] := ⟨rfl, rfl⟩
theorem witness_TickCountsBothTimersDown :
    let s := State.reset.setDT 0x01#8
    s.fault = none ∧ s.dt.toNat > 0 ∧ s.st.toNat = 0 := by decide
theorem witness_TickCountsBothTimersDown_other :
    let s := State.reset.setST 0xFF#8
    s.fault = none ∧ s.dt.toNat = 0 ∧ s.st.toNat > 0 := by decide
theorem witness_ResetLoadsRom_last_byte : 3583 < (List.replicate 3585 (0x07#8 : Byte)).length ∧ 3583 < 3584 := by
  rw [List.length_replicate]; decide
theorem witness_ResetLoadsRom_outside :
    (0x1FF#12).toNat < 0x200 ∧ 0x200 + [0x12#8].length ≤ (0x201#12).toNat := by decide
theorem witness_NoOpWordsOnlyAdvance : (Instr.sys 0x123#12).variant = .nop ∧ (Instr.nop 0x5121#16).variant = .nop := by
  decide
/-- Two return addresses on the stack. -/
def twoCalls : State := { State.reset with stack := [0x0202#16, 0x0402#16] }
theorem witness_ReturnPopsNewestAddress : twoCalls.stack = [0x0202#16] ++ [0x0402#16] := by decide
theorem witness_ReturnOnEmptyStackFaults : State.reset.stack = [] := rfl
theorem witness_CallPushesReturnAddress :
    ({ State.reset with stack := List.replicate 15 0x0202#16 } : State).stack.length < 16 := by decide
theorem witness_CallOnFullStackFaults :
    ({ State.reset with stack := List.replicate 16 0x0202#16 } : State).stack.length = 16 := by decide
theorem witness_SkipsAdvanceByComparison :
    let s := withV 1#4 0x07#8 2#4 0x08#8
    s.getV 1#4 ≠ s.getV 2#4 ∧ s.getV 1#4 = 0x07#8 ∧ s.getV 1#4 ≠ 0x08#8 ∧ s.getV 1#4 = s.getV 1#4 := by decide
/-- CALL 0x300 at reset with a RET at 0x300. -/
def callThenRet : State := ((holding 0x2300).writeMem 0x300#12 0x00#8).writeMem 0x301#12 0xEE#8
theorem witness_CallThenReturnResumes :
    callThenRet.launched = true ∧ callThenRet.fault = none ∧ callThenRet.wait = .idle ∧ callThenRet.schedule = [] ∧ callThenRet.stack.length < 16 ∧
      decode callThenRet.fetch = .call 0x300#12 ∧ callThenRet.readMem 0x300#12 = 0x00#8 ∧
      callThenRet.readMem (0x300#12 + 1#12) = 0xEE#8 := by decide
theorem witness_AddRegistersWithCarry : (0#4 : Reg) ≠ VF := by decide
theorem witness_SubtractAndShiftWithFlag : (14#4 : Reg) ≠ VF := by decide
theorem witness_RandomMasksDrawnByte : (0x00#8 : Byte) = 0x00#8 := rfl
theorem witness_BcdStoresThreeDigits : Memory.wf ((holding 0xF133).setI 0x0FFE#16).mem = true := by decide
theorem witness_StoreBlockCopiesRegisters :
    Memory.wf ((holding 0xFF55).setI 0x0FF8#16).mem = true ∧ (15#4).toNat ≤ (15#4).toNat := by decide
theorem witness_LoadBlockCopiesMemory : (0#4).toNat ≤ (0#4).toNat ∧ (15#4).toNat ≤ (15#4).toNat := by decide
/-- Two registers to store at 0x300. -/
def storing : State := (withV 0#4 0x12#8 1#4 0x34#8).setI 0x0300#16
theorem witness_LoadBlockUndoesStoreBlock :
    let t := (storing.storeBlock 2).advance
    let u := (t.setV 0#4 0#8).setV 1#4 0#8
    Memory.wf storing.mem = true ∧ exec (.ldMem 1#4) storing = .next t ∧ u.mem = t.mem ∧ u.i = t.i ∧
      exec (.ldXMem 1#4) u = .next (u.loadBlock 2).advance ∧ (1#4).toNat ≤ (1#4).toNat :=
  ⟨rfl, rfl, rfl, rfl, rfl, le_rfl⟩
/-- Program P5's store: V0, V1 to 0x202, 0x203, the next instruction's bytes. -/
def selfModifying : State := ((launchedReset.setV 0#4 0x12#8).setV 1#4 0x08#8).setI 0x0202#16
theorem witness_StoredBytesAreFetchedNext :
    Memory.wf selfModifying.mem = true ∧
      [0x12#8, 0x08#8] = (List.range ((1#4 : Reg).toNat + 1)).map (fun k => selfModifying.getV (BitVec.ofNat 4 k)) ∧
      A12 (selfModifying.pc.toNat + 2) = A12 (selfModifying.i.toNat + 0) ∧
      A12 (selfModifying.pc.toNat + 3) = A12 (selfModifying.i.toNat + 1) ∧
      selfModifying.fault = none ∧ selfModifying.wait = .idle ∧ EngineMoves selfModifying [] :=
  ⟨rfl, by decide, by decide, by decide, rfl, rfl, rfl, .inr ⟨rfl, rfl⟩⟩
/-- FX33 whose last digit falls on the first byte of the next instruction, the second byte not stored to. -/
theorem witness_StoredBytesAreFetchedNext_one_byte :
    let s := (State.reset.setV 1#4 254#8).setI 0x0200#16
    [0x02#8, 0x05#8, 0x04#8] = [BitVec.ofNat 8 ((s.getV 1#4).toNat / 100), BitVec.ofNat 8 ((s.getV 1#4).toNat / 10 % 10),
        BitVec.ofNat 8 ((s.getV 1#4).toNat % 10)] ∧
      A12 (s.pc.toNat + 2) = A12 (s.i.toNat + 2) ∧ (∀ k < 3, A12 (s.pc.toNat + 3) ≠ A12 (s.i.toNat + k)) ∧
      (after (.ldB 1#4) s).fetch = 0x0400#16 := by decide
/-- The screen with cell (0, 0) on. -/
def oneOn : Framebuffer := Framebuffer.allOff.set 0 1#64
/-- A 1 bit drawn on an on cell: (0, 0) goes off. -/
def colliding : State := { launchedReset.setI 0x300#16 with mem := [(0x300, 0x80#8)], fb := oneOn }
theorem witness_DrawTurnsOverCoveredCells :
    colliding.isOn 0 0 ∧ ¬ (after (.drw 1#4 2#4 1#4) colliding).isOn 0 0 ∧ SpriteCovers colliding 1#4 2#4 1#4 0 0 :=
  ⟨by unfold State.isOn; decide, by unfold State.isOn; decide, 0, 0, by decide, by decide, by decide, by decide, by decide⟩
theorem witness_DrawTurnsOverCoveredCells_no_collision :
    ∀ row < 32, ∀ col < 64, State.reset.isOn row col → (after (.drw 1#4 2#4 1#4) State.reset).isOn row col := by
  intro row _ col _ h
  exact absurd h (by rw [State.isOn, show State.reset.fb = Framebuffer.allOff from rfl, Framebuffer.cell_allOff]; exact Bool.false_ne_true)
theorem witness_DrawTwiceRestoresScreen : (1#4 : Reg) ≠ VF ∧ (2#4 : Reg) ≠ VF := by decide
theorem witness_SnapshotIsWholeFramebuffer :
    step (holding 0xD120) = .next (stepped (holding 0xD120)) ∧
      ∀ rom rest, (holding 0xD120).schedule ≠ .host (.reset rom) :: rest :=
  ⟨rfl, fun _ _ h => nomatch h⟩
theorem witness_KeyTestsSkip_down :
    let s := ((State.reset.press 15#4).setV 2#4 0x0F#8)
    (15#4 : Key).toNat = (s.getV 2#4).toNat ∧ s.keys.isDown 15#4 = true := by decide
theorem witness_KeyTestsSkip_above_f :
    let s := ((State.reset.press 0#4).setV 2#4 0x10#8)
    ∀ k : Key, k.toNat = (s.getV 2#4).toNat → s.keys.isDown k = false := by decide
theorem witness_KeyWaitFirstStepBlocks : key5Down.fault = none ∧ key5Down.wait = .idle := by decide
/-- A pending wait for V3, with an engine turn to come. -/
def waiting3 : State := { (holding 0xF30A).setWait (.waiting 3#4) with schedule := [.engine] }
theorem witness_KeyWaitPollStep_empty :
    waiting3.fault = none ∧ waiting3.wait = .waiting 3#4 ∧ EngineMoves waiting3 [] ∧ waiting3.keys.lastReleased = none :=
  ⟨rfl, rfl, ⟨rfl, .inl rfl⟩, rfl⟩
theorem witness_KeyWaitPollStep_key :
    (waiting3.release 7#4).fault = none ∧ (waiting3.release 7#4).wait = .waiting 3#4 ∧
      EngineMoves (waiting3.release 7#4) [] ∧ (waiting3.release 7#4).keys.lastReleased = some 7#4 :=
  ⟨rfl, rfl, ⟨rfl, .inl rfl⟩, rfl⟩
/-- The quiet turns of the witness below. -/
def quietTurns : List Turn := [Turn.engine, Turn.host .tick, Turn.host (.press 6#4), Turn.engine]
theorem witness_KeyWaitBlocksWithoutRelease :
    let s := { waiting3 with schedule := quietTurns ++ [Turn.engine] }
    s.launched = true ∧ s.fault = none ∧ s.wait = .waiting 3#4 ∧ s.keys.lastReleased = none ∧ s.schedule = quietTurns ++ [Turn.engine] ∧
      ∀ u ∈ quietTurns, u.quiet = true := ⟨rfl, rfl, rfl, rfl, rfl, by decide⟩
theorem witness_KeyWaitDeliversLastRelease :
    let s := { waiting3 with
      schedule := [.host (.release 3#4), .host (.release 9#4), .host .tick, .engine] }
    s.launched = true ∧ s.fault = none ∧ s.wait = .waiting 3#4 ∧
      s.schedule = ([HostEvent.release 3#4] ++ .release 9#4 :: [HostEvent.tick]).map Turn.host ++ .engine :: [] ∧
      (∀ rom, HostEvent.reset rom ∉ [HostEvent.release 3#4] ++ [HostEvent.tick]) ∧ ∀ j, HostEvent.release j ∉ [HostEvent.tick] :=
  ⟨rfl, rfl, rfl, rfl, by intro rom h; simp at h, by intro j h; simp at h⟩
theorem witness_TimersReadAndWrittenOnlyByTheirMoves :
    exec (.ldDT 5#4) (State.reset.setV 5#4 0x3C#8) = .next (after (.ldDT 5#4) (State.reset.setV 5#4 0x3C#8)) ∧
      (after (.ldDT 5#4) (State.reset.setV 5#4 0x3C#8)).dt ≠ (State.reset.setV 5#4 0x3C#8).dt := ⟨rfl, by decide⟩
theorem witness_TimersReadAndWrittenOnlyByTheirMoves_sound :
    exec (.ldST 5#4) (State.reset.setV 5#4 0x3C#8) = .next (after (.ldST 5#4) (State.reset.setV 5#4 0x3C#8)) ∧
      (after (.ldST 5#4) (State.reset.setV 5#4 0x3C#8)).st ≠ (State.reset.setV 5#4 0x3C#8).st ∧
      ∀ x, Instr.ldST 5#4 ≠ .ldXDT x ∧ Instr.ldST 5#4 ≠ .ldDT x := ⟨rfl, by decide, by decide⟩
theorem witness_ProgramCounterDiscipline :
    exec (.jp 0x234#12) State.reset = .next (after (.jp 0x234#12) State.reset) ∧ State.reset.fault = none ∧
      (after (.jp 0x234#12) State.reset).fault = none := ⟨rfl, rfl, rfl⟩
theorem witness_StackTouchedOnlyByCallAndReturn :
    exec .ret twoCalls = .next (after .ret twoCalls) ∧ (after .ret twoCalls).stack ≠ twoCalls.stack := ⟨rfl, by decide⟩
theorem witness_ScreenWrittenOnlyByClearAndDraw : exec .cls colliding = .next (after .cls colliding) := rfl
theorem witness_MemoryWrittenOnlyByStores :
    Memory.wf storing.mem = true ∧ exec (.ldMem 1#4) storing = .next (after (.ldMem 1#4) storing) ∧
      (after (.ldMem 1#4) storing).readMem 0x301#12 ≠ storing.readMem 0x301#12 := ⟨rfl, rfl, by decide⟩
theorem witness_RegistersWrittenOnlyAsDestinations :
    exec (.ldXMem 0#4) storing = .next (after (.ldXMem 0#4) storing) ∧
      (after (.ldXMem 0#4) storing).getV 0#4 ≠ storing.getV 0#4 := ⟨rfl, by decide⟩
theorem witness_EngineWritesOnlyTheReleasedSlot :
    exec (.ldK 3#4) key5Down = .next (after (.ldK 3#4) key5Down) ∧
      (after (.ldK 3#4) key5Down).keys.lastReleased ≠ key5Down.keys.lastReleased := ⟨rfl, by decide⟩
theorem witness_OnlyReturnAndCallFault :
    exec .ret State.reset = .next (after .ret State.reset) ∧ (after .ret State.reset).fault ≠ State.reset.fault :=
  ⟨rfl, by decide⟩
theorem witness_OutputOnlyGrows :
    step (holding 0x00E0) = .next (stepped (holding 0x00E0)) ∧
      ∀ rom rest, (holding 0x00E0).schedule ≠ .host (.reset rom) :: rest := ⟨rfl, fun _ _ h => nomatch h⟩
theorem witness_ParkedMachineStaysParked : Parked (holding 0x1200) ∧ (holding 0x1200).schedule = [] :=
  ⟨⟨rfl, rfl, rfl, 0x200#12, by decide, by decide⟩, rfl⟩
theorem witness_ParkedMachineStaysParked_host_turns :
    let s := { holding 0x1200 with dt := 0x05#8, schedule := [.host .tick, .engine, .host (.release 3#4)] }
    Parked s ∧ (∀ rom, Turn.host (.reset rom) ∉ s.schedule) ∧ (∀ rom rest, s.schedule ≠ .host (.reset rom) :: rest) ∧
      EngineMoves { s with schedule := [.engine] } [] :=
  ⟨⟨rfl, rfl, rfl, 0x200#12, by decide, by decide⟩, by intro rom h; simp at h, by intro rom rest h; simp at h, rfl, .inl rfl⟩
theorem witness_NoRunBeforeARomIsLoaded :
    let s := { State.reset with schedule := [.host .tick, .host (.press 3#4)] }
    s.launched = false ∧ (∀ rom, Turn.host (.reset rom) ∉ s.schedule) ∧ runSteps 2 s = .next (stepped (stepped s)) ∧
      EngineTurn State.reset [] :=
  ⟨rfl, by intro rom h; simp at h, rfl, .inr ⟨rfl, rfl⟩⟩
theorem test_reset_turn_launches :
    let s := { State.reset with schedule := [.host (.reset [0x60#8, 0x05#8])] }
    (stepped (stepped s)).getV 0#4 = 0x05#8 := by decide
/-- A pending wait and a return address: the invariant holds and a step answers. -/
def waitingInCall : State := { (holding 0xF30A).setWait (.waiting 3#4) with stack := [0x0206#16] }
theorem witness_EveryStepKeepsInvariant :
    Inv waitingInCall ∧ step waitingInCall = .next (stepped waitingInCall) :=
  ⟨⟨by decide, by decide, (fun x hx => by cases hx; decide), (fun _ h => nomatch h), (fun h => nomatch h)⟩, rfl⟩
theorem witness_EveryStepKeepsInvariant_not_launched :
    let s := { State.reset with schedule := [.host .tick] }
    Inv s ∧ s.launched = false ∧ step s = .next (stepped s) :=
  ⟨⟨by decide, by decide, (fun _ h => nomatch h), (fun _ h => nomatch h), (fun _ => ⟨_, _, rfl⟩)⟩, rfl, rfl⟩
theorem witness_EveryStepKeepsInvariant_faulted :
    let s := { (holding 0x00EE).raiseFault .stackUnderflow .ret with schedule := [.host (.press 1#4)] }
    Inv s ∧ step s = .next (stepped s) :=
  ⟨⟨by decide, by decide, (fun _ h => nomatch h), (fun r hr => by
    cases hr; exact ⟨rfl, rfl, by decide, (fun _ => ⟨rfl, by decide⟩), (fun h => nomatch h)⟩), (fun h => nomatch h)⟩, rfl⟩
theorem witness_EveryStepKeepsScreenMatchingOutput :
    let s := { colliding with out := [.clear, .present oneOn] }
    ScreenMatchesOutput s ∧ step s = .next (stepped s) := ⟨rfl, rfl⟩

end Sys2Proof.Tests
end

namespace Sys2Proof.Machine

/-! ### The host's events (00_scope.md R10) -/

@[simp] theorem State.applyEvent_tick (s : State) : s.applyEvent .tick = s.tick := rfl

@[simp] theorem State.applyEvent_press (s : State) (k : Key) : s.applyEvent (.press k) = s.press k := rfl

@[simp] theorem State.applyEvent_release (s : State) (k : Key) : s.applyEvent (.release k) = s.release k := rfl

@[simp] theorem State.applyEvent_reset (s : State) (rom : List Byte) :
    s.applyEvent (.reset rom) = s.hostReset rom := rfl

/-- Settles O8: a host turn is one event applied with the turn taken off the schedule, read off for each event. No case
looks at the fault record or the key wait, because only an engine turn reads them. -/
theorem hostTurnTakesOneEvent : Obligations.HostTurnTakesOneEvent := by
  intro s rest
  refine ⟨fun h => ?tick, fun k h => ?press, fun k h => ?release, fun rom h => ?reset⟩
  case tick => rw [step_of_host h, State.applyEvent_tick]
  case press => rw [step_of_host h, State.applyEvent_press]
  case release => rw [step_of_host h, State.applyEvent_release]
  case reset => rw [step_of_host h, State.applyEvent_reset]

end Sys2Proof.Machine

namespace Sys2Proof.Machine

/-! ### What RET and CALL leave unchanged (R102, R104, R243) -/

/-- RET moves the stack and pc, or it takes a fault. -/
theorem exec_ret_frame {s t : State} (h : exec .ret s = .next t) :
    t = { s with pc := t.pc, stack := t.stack, fault := t.fault } := by
  rcases exec_ret_cases h with ⟨_, rfl⟩ | ⟨_, _, _, rfl⟩ <;> rfl

/-- CALL moves the stack and pc, or it takes a fault. -/
theorem exec_call_frame {s t : State} {nnn : Addr} (h : exec (.call nnn) s = .next t) :
    t = { s with pc := t.pc, stack := t.stack, fault := t.fault } := by
  rcases exec_call_cases h with ⟨_, rfl⟩ | ⟨_, rfl⟩ <;> rfl

/-! ### The screen and its commands (R29, R35, R252) -/

/-- Settles O49: the two display instructions by their own equations; RET and CALL by their frames; no other
instruction's update touches the screen or the output. -/
theorem screenWrittenOnlyByClearAndDraw : Obligations.ScreenWrittenOnlyByClearAndDraw := by
  intro i s t h
  cases i with
  | cls => cases h; exact .inl ⟨rfl, rfl, rfl⟩
  | drw x y n => cases h; exact .inr (.inl ⟨⟨x, y, n, rfl⟩, rfl⟩)
  | ret => rw [exec_ret_frame h]; exact .inr (.inr ⟨nofun, nofun, rfl, rfl⟩)
  | call nnn => rw [exec_call_frame h]; exact .inr (.inr ⟨nofun, nofun, rfl, rfl⟩)
  | _ => cases h; exact .inr (.inr ⟨nofun, nofun, by simp, by simp⟩)

@[simp] theorem State.tick_fb (s : State) : s.tick.fb = s.fb := by
  rw [State.tick]; split <;> rfl

@[simp] theorem State.tick_out (s : State) : s.tick.out = s.out := by
  rw [State.tick]; split <;> rfl

@[simp] theorem State.pollKey_fb (s : State) (x : Reg) : (s.pollKey x).fb = s.fb := by
  rw [State.pollKey]; split <;> rfl

@[simp] theorem State.pollKey_out (s : State) (x : Reg) : (s.pollKey x).out = s.out := by
  rw [State.pollKey]; split <;> rfl

/-- What a step that is no Reset does to the screen and the output: it leaves both alone, or it clears the screen and
says so, or it presents the new screen. -/
inductive ScreenStep (s t : State) : Prop
  | same (fb : t.fb = s.fb) (out : t.out = s.out)
  | clear (fb : t.fb = Framebuffer.allOff) (out : t.out = s.out ++ [.clear])
  | present (out : t.out = s.out ++ [.present t.fb])

theorem screenStep_of_exec {i : Instr} {s t : State} (h : exec i s = .next t) : ScreenStep s t := by
  rcases screenWrittenOnlyByClearAndDraw i s t h with ⟨_, hfb, hout⟩ | ⟨_, hout⟩ | ⟨_, _, hfb, hout⟩
  · exact .clear hfb hout
  · exact .present hout
  · exact .same hfb hout

theorem screenStep_of_engineStep {s t : State} (h : engineStep s = .next t) : ScreenStep s t := by
  obtain ⟨_, _, ⟨x, _, rfl⟩ | ⟨_, h⟩⟩ := engineStep_cases h
  · exact .same (s.pollKey_fb x) (s.pollKey_out x)
  · exact screenStep_of_exec h

theorem screenStep_of_applyEvent (s : State) {e : HostEvent} (he : ∀ rom, e ≠ .reset rom) :
    ScreenStep s (s.applyEvent e) := by
  cases e with
  | tick => exact .same s.tick_fb s.tick_out
  | press k => exact .same rfl rfl
  | release k => exact .same rfl rfl
  | reset rom => exact absurd rfl (he rom)

/-- Taking a turn off the schedule does not matter to the screen. -/
theorem ScreenStep.of_schedule {s t : State} {rest : List Turn} (h : ScreenStep { s with schedule := rest } t) :
    ScreenStep s t := by
  cases h with
  | same fb out => exact .same fb out
  | clear fb out => exact .clear fb out
  | present out => exact .present out

/-- Every step is the Reset event or a `ScreenStep`. -/
theorem step_reset_or_screenStep {s t : State} (h : step s = .next t) :
    (∃ rom rest, s.schedule = .host (.reset rom) :: rest ∧ t = State.hostReset { s with schedule := rest } rom) ∨
      ScreenStep s t := by
  rcases step_cases h with ⟨e, rest, hs, rfl⟩ | ⟨rest, _, h⟩
  · cases e with
    | reset rom => exact .inl ⟨rom, rest, hs, rfl⟩
    | _ => exact .inr (screenStep_of_applyEvent _ (by simp)).of_schedule
  · exact .inr (screenStep_of_engineStep h).of_schedule

/-- Settles O54: each case of `ScreenStep` adds no command or one. -/
theorem outputOnlyGrows : Obligations.OutputOnlyGrows := by
  intro s t h hreset
  obtain ⟨rom, rest, hs, _⟩ | hstep := step_reset_or_screenStep h
  · exact absurd hs (hreset rom rest)
  · cases hstep with
    | same _ out => exact .inl out
    | clear _ out => exact .inr ⟨_, out⟩
    | present out => exact .inr ⟨_, out⟩

theorem screenMatchesOutput_hostReset (s : State) (rom : List Byte) : ScreenMatchesOutput (s.hostReset rom) := rfl

/-- A `ScreenStep` keeps the screen equal to what the last command showed. -/
theorem ScreenMatchesOutput.of_screenStep {s t : State} (hs : ScreenMatchesOutput s) (h : ScreenStep s t) :
    ScreenMatchesOutput t := by
  cases h with
  | same fb out => rwa [ScreenMatchesOutput, fb, out]
  | clear fb out => rwa [ScreenMatchesOutput, out, List.getLast?_concat]
  | present out => rw [ScreenMatchesOutput, out, List.getLast?_concat]

/-- Settles O58: a Reset leaves the screen off and the output empty, and every other step adds a command only together
with the screen it shows. -/
theorem everyStepKeepsScreenMatchingOutput : Obligations.EveryStepKeepsScreenMatchingOutput := by
  intro s t hs h
  obtain ⟨rom, rest, _, rfl⟩ | hstep := step_reset_or_screenStep h
  · exact screenMatchesOutput_hostReset _ rom
  · exact hs.of_screenStep hstep

/-! ### The reset state (R39, R270, R271) -/

/-- The invariant at process start. -/
theorem inv_reset : Inv State.reset where
  memoryCanonical := Memory.wf_reset
  stackBounded := Nat.zero_le 16
  waitIsFetched := nofun
  faultRecorded := nofun
  atStartUntilReset _ := ⟨_, _, rfl⟩

/-- The invariant after a Reset event, whatever the state before it. -/
theorem inv_hostReset (s : State) (rom : List Byte) : Inv (s.hostReset rom) where
  memoryCanonical := Memory.wf_romMemory rom
  stackBounded := Nat.zero_le 16
  waitIsFetched := nofun
  faultRecorded := nofun
  atStartUntilReset := nofun

/-- Settles O59: at a reset nothing waits, no fault is recorded, the stack and the output are empty and the screen is off;
the memory of a ROM image is canonical. -/
theorem resetMeetsInvariants : Obligations.ResetMeetsInvariants :=
  ⟨inv_reset, rfl, fun s rom => ⟨inv_hostReset s rom, screenMatchesOutput_hostReset s rom⟩⟩

/-- No cell of the clear screen is on. -/
theorem State.not_isOn_of_allOff {s : State} (h : s.fb = Framebuffer.allOff) (row col : Nat) : ¬ s.isOn row col := by
  simp [State.isOn, h]

/-- Settles O14: each value is the one `State.reset` writes, read through the accessor. -/
theorem resetStateValues : Obligations.ResetStateValues := by
  have hoff : ∀ row < 32, ∀ col < 64, ¬ State.reset.isOn row col := fun row _ col _ =>
    State.not_isOn_of_allOff rfl row col
  have hkeys : ∀ k, State.reset.keys.isDown k = false := fun k => BitVec.getLsbD_zero
  exact ⟨rfl, State.getV_reset, rfl, rfl, rfl, rfl, fun _ => rfl, hoff, rfl, hkeys, rfl, rfl, rfl, rfl⟩

/-! ### The key events (R31, R33) -/

/-- The one bit of key `k`'s mask. -/
theorem getLsbD_twoPow_key (k j : Key) : (BitVec.twoPow 16 k.toNat).getLsbD j.toNat = decide (j = k) := by
  have hk : k.toNat < 16 := k.isLt
  simp [BitVec.getLsbD_twoPow, hk, BitVec.toNat_inj, eq_comm]

theorem State.isDown_press (s : State) (k j : Key) :
    (s.press k).keys.isDown j = true ↔ j = k ∨ s.keys.isDown j = true := by
  rw [Keys.isDown, State.press_keys, BitVec.getLsbD_or, getLsbD_twoPow_key, Bool.or_eq_true, decide_eq_true_iff,
    or_comm, Keys.isDown]

theorem State.isDown_release (s : State) (k j : Key) :
    (s.release k).keys.isDown j = true ↔ j ≠ k ∧ s.keys.isDown j = true := by
  have hj : j.toNat < 16 := j.isLt
  rw [Keys.isDown, State.release_keys, BitVec.getLsbD_and, BitVec.getLsbD_not, getLsbD_twoPow_key, Keys.isDown]
  simp [hj, and_comm]

theorem State.press_changesOnly (s : State) (k : Key) : ChangesOnly s (s.press k) [.pressed] := by
  intro p hp
  cases p with
  | pressed => exact absurd List.mem_cons_self hp
  | _ => rfl

theorem State.release_changesOnly (s : State) (k : Key) :
    ChangesOnly s (s.release k) [.pressed, .lastReleased] := by
  intro p hp
  cases p with
  | pressed | lastReleased => simp at hp
  | _ => rfl

/-- Settles O12: the bit of each key under the event's mask, and the frame of each event. -/
theorem keyEventsUpdateInputState : Obligations.KeyEventsUpdateInputState := fun s k j =>
  ⟨s.isDown_press k j, s.press_changesOnly k, s.isDown_release k j, rfl, s.release_changesOnly k⟩

/-! ### The flags as numbers (R22) -/

theorem toNat_flagByte (f : Bool) : (flagByte f).toNat = f.toNat := by
  cases f <;> rfl

theorem toNat_flagByte_carryOf (a b : Byte) :
    (flagByte (carryOf a b)).toNat = if a.toNat + b.toNat > 255 then 1 else 0 := by
  rw [toNat_flagByte, carryOf]
  exact Bool.cond_decide _ 1 0

theorem toNat_flagByte_noBorrowOf (a b : Byte) :
    (flagByte (noBorrowOf a b)).toNat = if a.toNat ≥ b.toNat then 1 else 0 := by
  rw [toNat_flagByte, noBorrowOf]
  exact Bool.cond_decide _ 1 0

theorem toNat_flagByte_shiftedOutRight (b : Byte) : (flagByte (shiftedOutRight b)).toNat = b.toNat % 2 := by
  rw [toNat_flagByte, shiftedOutRight, BitVec.getLsbD, Nat.toNat_testBit, pow_zero, Nat.div_one]

theorem toNat_flagByte_shiftedOutLeft (b : Byte) : (flagByte (shiftedOutLeft b)).toNat = b.toNat / 128 := by
  have hb : b.toNat < 256 := b.isLt
  rw [toNat_flagByte, shiftedOutLeft, BitVec.getLsbD, Nat.toNat_testBit]
  omega

/-- The flag is written after the result, so VF holds it whatever the destination (R37). -/
theorem State.getV_setVThenFlag_VF (s : State) (x : Reg) (b : Byte) (f : Bool) :
    (s.setVThenFlag x b f).getV VF = flagByte f := by
  rw [State.getV_setVThenFlag, if_pos rfl]

/-- VF after a flag-producing instruction, as a number. -/
theorem State.toNat_getV_advance_setVThenFlag (s : State) (x : Reg) (b : Byte) {f : Bool} {n : Nat}
    (h : (flagByte f).toNat = n) : ((s.setVThenFlag x b f).advance.getV VF).toNat = n := by
  rw [State.advance_getV, State.getV_setVThenFlag_VF, h]

/-- Settles O28: in each of the five, VF reads as the flag computed from the operands of the state before. -/
theorem flagOverwritesResultInVF : Obligations.FlagOverwritesResultInVF := by
  intro y s
  exact ⟨⟨_, exec_addReg .., s.toNat_getV_advance_setVThenFlag _ _ (toNat_flagByte_carryOf ..)⟩,
    ⟨_, exec_sub .., s.toNat_getV_advance_setVThenFlag _ _ (toNat_flagByte_noBorrowOf ..)⟩,
    ⟨_, exec_shr .., s.toNat_getV_advance_setVThenFlag _ _ (toNat_flagByte_shiftedOutRight _)⟩,
    ⟨_, exec_subn .., s.toNat_getV_advance_setVThenFlag _ _ (toNat_flagByte_noBorrowOf ..)⟩,
    ⟨_, exec_shl .., s.toNat_getV_advance_setVThenFlag _ _ (toNat_flagByte_shiftedOutLeft _)⟩⟩

/-! ### The stack and the program counter (R25, R28, R111) -/

/-- Settles O48: CALL pushes and RET pops one entry at the newest end; a fault, and every other instruction, leaves the
stack as it is. -/
theorem stackTouchedOnlyByCallAndReturn : Obligations.StackTouchedOnlyByCallAndReturn := by
  intro i s t h hne
  cases i with
  | ret =>
    obtain ⟨_, rfl⟩ | ⟨rest, target, hs, rfl⟩ := exec_ret_cases h
    · exact absurd rfl hne
    · exact .inr ⟨rfl, target, by simp [hs]⟩
  | call nnn =>
    obtain ⟨_, rfl⟩ | ⟨_, rfl⟩ := exec_call_cases h
    · exact .inl ⟨nnn, rfl, rfl⟩
    · exact absurd rfl hne
  | _ => cases h; simp at hne

theorem State.skipIf_pc_cases (s : State) (c : Bool) :
    (s.skipIf c).pc = s.pc + 2 ∨ (s.skipIf c).pc = s.pc + 4 := by
  cases c
  · exact .inl rfl
  · exact .inr rfl

/-- Settles O47: jumps, CALL, RET and FX0A by their own rules, the faulting outcomes of RET and CALL excluded because they
leave a record; the six skips by the two outcomes of `skipIf`; every other instruction advances. -/
theorem programCounterDiscipline : Obligations.ProgramCounterDiscipline := by
  intro i s t h _ hfault
  cases i with
  | jp nnn => cases h; exact .inr (.inr (.inl ⟨nnn, .inl rfl, rfl⟩))
  | jpV0 nnn => cases h; exact .inr (.inr (.inr (.inl ⟨nnn, rfl, rfl⟩)))
  | ldK x => cases h; exact .inr (.inr (.inr (.inr (.inr ⟨x, rfl, rfl, rfl⟩))))
  | call nnn =>
    obtain ⟨_, rfl⟩ | ⟨_, rfl⟩ := exec_call_cases h
    · exact .inr (.inr (.inl ⟨nnn, .inr rfl, rfl⟩))
    · nomatch hfault
  | ret =>
    obtain ⟨_, rfl⟩ | ⟨rest, target, hs, rfl⟩ := exec_ret_cases h
    · nomatch hfault
    · exact .inr (.inr (.inr (.inr (.inl ⟨rfl, by simp [hs]⟩))))
  | seImm | sneImm | seReg | sneReg | skp | sknp =>
    cases h
    obtain hpc | hpc := s.skipIf_pc_cases _
    · exact .inl ⟨hpc, by simp⟩
    · exact .inr (.inl ⟨hpc, by simp⟩)
  | _ => cases h; exact .inl ⟨by simp, by simp⟩

/-! ### The registers (R21, R22) -/

section
variable {s : State} {x r : Reg} {b : Byte}

theorem State.eq_of_getV_setV_ne (h : (s.setV x b).getV r ≠ s.getV r) : r = x := by
  by_contra hr
  exact h (s.getV_setV_of_ne hr b)

theorem State.eq_or_eq_of_getV_setVThenFlag_ne {f : Bool} (h : (s.setVThenFlag x b f).getV r ≠ s.getV r) :
    r = x ∨ r = VF := by
  by_contra! hr
  exact h (by rw [State.getV_setVThenFlag, if_neg hr.2, if_neg hr.1])

theorem State.le_of_getV_loadBlock_ne (h : (s.loadBlock (x.toNat + 1)).getV r ≠ s.getV r) : r.toNat ≤ x.toNat := by
  by_contra hr
  exact h (by rw [State.getV_loadBlock _ x.isLt, if_neg (by omega)])

end

/-- Settles O51: the instructions grouped by the register write they make, a single register, a result and its flag, the
flag alone, or a block; the others leave every register as it is. -/
theorem registersWrittenOnlyAsDestinations : Obligations.RegistersWrittenOnlyAsDestinations := by
  intro i s t r h hne
  cases i with
  | ldImm x kk | addImm x kk | rnd x kk =>
    cases h
    obtain rfl := State.eq_of_getV_setV_ne hne
    exact .inl ⟨kk, by simp⟩
  | ldReg x y | or x y | and x y | xor x y =>
    cases h
    obtain rfl := State.eq_of_getV_setV_ne hne
    exact .inr (.inl ⟨y, by simp⟩)
  | addReg x y | sub x y | shr x y | subn x y | shl x y =>
    cases h
    exact .inr (.inr (.inl ⟨x, y, State.eq_or_eq_of_getV_setVThenFlag_ne hne, by simp⟩))
  | drw x y n =>
    cases h
    exact .inr (.inr (.inr (.inl ⟨State.eq_of_getV_setV_ne hne, x, y, n, rfl⟩)))
  | ldXDT x =>
    cases h
    obtain rfl := State.eq_of_getV_setV_ne hne
    exact .inr (.inr (.inr (.inr (.inl rfl))))
  | ldXMem x =>
    cases h
    exact .inr (.inr (.inr (.inr (.inr ⟨x, State.le_of_getV_loadBlock_ne hne, rfl⟩))))
  | ret => rw [exec_ret_frame h] at hne; exact absurd rfl hne
  | call nnn => rw [exec_call_frame h] at hne; exact absurd rfl hne
  | _ => cases h; simp at hne

/-! ### The Input State (R32) -/

theorem exec_keys_of_ne_ldK {i : Instr} {s t : State} (h : exec i s = .next t) (hi : ∀ x, i ≠ .ldK x) :
    t.keys = s.keys := by
  cases i with
  | ldK x => exact absurd rfl (hi x)
  | ret => rw [exec_ret_frame h]
  | call nnn => rw [exec_call_frame h]
  | _ => cases h; simp

/-- A poll takes the slot and keeps the pressed set (R214). -/
theorem State.pollKey_keys (s : State) (x : Reg) : (s.pollKey x).keys = ⟨s.keys.pressed, none⟩ := by
  cases hslot : s.keys.lastReleased with
  | none => rw [State.pollKey_none hslot, ← hslot]
  | some key => rw [State.pollKey_some hslot]; rfl

/-- Settles O52: FX0A's first step and the poll leave the pressed set and an empty slot; no other instruction moves the
keys. -/
theorem engineWritesOnlyTheReleasedSlot : Obligations.EngineWritesOnlyTheReleasedSlot := by
  refine ⟨fun i s t h => ?_, fun x s => ⟨_, exec_ldK .., rfl⟩, fun s x => by rw [s.pollKey_keys x]; exact ⟨rfl, rfl⟩⟩
  by_cases hi : ∃ x, i = .ldK x
  · obtain ⟨x, rfl⟩ := hi
    cases h
    exact ⟨rfl, fun _ => ⟨⟨x, rfl⟩, rfl⟩⟩
  · have hkeys := exec_keys_of_ne_ldK h (not_exists.1 hi)
    exact ⟨by rw [hkeys], fun hne => absurd (by rw [hkeys]) hne⟩

/-! ### The timers (R27) -/

/-- Both timers replaced, so that one law covers a change of either. -/
def State.setTimers (s : State) (dt st : Byte) : State := (s.setDT dt).setST st

theorem State.setTimers_st (s : State) (b : Byte) : s.setTimers s.dt b = s.setST b := rfl

theorem State.setTimers_dt (s : State) (b : Byte) : s.setTimers b s.st = s.setDT b := rfl

theorem State.setTimers_self (s : State) : s.setTimers s.dt s.st = s := rfl

section
variable (s : State) (dt st : Byte)

theorem State.storeBlock_setTimers (n : Nat) : (s.setTimers dt st).storeBlock n = (s.storeBlock n).setTimers dt st := by
  induction n with
  | zero => rfl
  | succ k ih => rw [State.storeBlock, ih]; rfl

theorem State.loadBlock_setTimers (n : Nat) : (s.setTimers dt st).loadBlock n = (s.loadBlock n).setTimers dt st := by
  induction n with
  | zero => rfl
  | succ k ih => rw [State.loadBlock, ih]; rfl

theorem State.drawRows_setTimers (ox oy n : Nat) : (s.setTimers dt st).drawRows ox oy n = s.drawRows ox oy n := by
  induction n with
  | zero => rfl
  | succ k ih => rw [State.drawRows, ih]; rfl

end

/-- An instruction that is none of the three timer moves neither reads nor writes a timer: with other timers it does the
same and leaves them. -/
theorem exec_setTimers {i : Instr} {s t : State} (h : exec i s = .next t)
    (hi : ∀ x, i ≠ .ldXDT x ∧ i ≠ .ldDT x ∧ i ≠ .ldST x) (d e : Byte) :
    exec i (s.setTimers d e) = .next (t.setTimers d e) := by
  cases i with
  | ldXDT x => exact absurd rfl (hi x).1
  | ldDT x => exact absurd rfl (hi x).2.1
  | ldST x => exact absurd rfl (hi x).2.2
  | ret =>
    obtain ⟨hs, rfl⟩ | ⟨rest, target, hs, rfl⟩ := exec_ret_cases h
    · exact exec_ret_empty (s := s.setTimers d e) hs
    · exact exec_ret_push (s := s.setTimers d e) hs
  | call nnn =>
    obtain ⟨hs, rfl⟩ | ⟨hs, rfl⟩ := exec_call_cases h
    · exact exec_call_room (s := s.setTimers d e) hs nnn
    · exact exec_call_full (s := s.setTimers d e) hs nnn
  | drw x y n => cases h; rw [exec_drw, State.drawRows_setTimers]; rfl
  | ldMem x => cases h; rw [exec_ldMem, State.storeBlock_setTimers]; rfl
  | ldXMem x => cases h; rw [exec_ldXMem, State.loadBlock_setTimers]; rfl
  | _ => cases h; rfl

/-- In particular it writes neither timer: replacing the timers of `s` by themselves changes nothing. -/
theorem exec_keeps_timers {i : Instr} {s t : State} (h : exec i s = .next t)
    (hi : ∀ x, i ≠ .ldXDT x ∧ i ≠ .ldDT x ∧ i ≠ .ldST x) : t.dt = s.dt ∧ t.st = s.st := by
  have hself := exec_setTimers h hi s.dt s.st
  rw [State.setTimers_self, h] at hself
  injection hself with ht
  rw [ht]
  exact ⟨rfl, rfl⟩

/-- Settles O46: the three timer moves by their own equations, every other instruction by `exec_setTimers` and
`exec_keeps_timers`. -/
theorem timersReadAndWrittenOnlyByTheirMoves : Obligations.TimersReadAndWrittenOnlyByTheirMoves := by
  intro i s t b h
  by_cases hi : ∃ x, i = .ldXDT x ∨ i = .ldDT x ∨ i = .ldST x
  · obtain ⟨x, rfl | rfl | rfl⟩ := hi
    · cases h
      exact ⟨absurd rfl, absurd rfl, nofun, fun _ => rfl, nofun, fun hne => absurd rfl (hne x).2⟩
    · cases h
      exact ⟨fun _ => ⟨x, rfl⟩, absurd rfl, nofun, fun _ => rfl, fun _ => rfl, fun hne => absurd rfl (hne x).1⟩
    · cases h
      exact ⟨absurd rfl, fun _ => ⟨x, rfl⟩, fun _ => rfl, fun hne => absurd rfl (hne x), nofun, fun _ => rfl⟩
  · push Not at hi
    obtain ⟨hdt, hst⟩ := exec_keeps_timers h hi
    have hST : exec i (s.setST b) = .next (t.setST b) := by
      rw [← s.setTimers_st, ← t.setTimers_st, hdt]; exact exec_setTimers h hi s.dt b
    have hDT : exec i (s.setDT b) = .next (t.setDT b) := by
      rw [← s.setTimers_dt, ← t.setTimers_dt, hst]; exact exec_setTimers h hi b s.st
    exact ⟨absurd hdt, absurd hst, fun ⟨x, hx⟩ => absurd hx (hi x).2.2, fun _ => hST,
      fun ⟨x, hx⟩ => absurd hx (hi x).2.1, fun _ => hDT⟩

end Sys2Proof.Machine

namespace Sys2Proof

/-! ### The word of a decoded instruction (R76, R83) -/

section
variable {w : Word} {hi n : Nybble} {kk : Byte}

theorem formatA_of_fields (hhi : (fieldHi w).toNat = hi.toNat) : formatA hi (fieldNNN w) = w := by
  rw [← BitVec.eq_of_toNat_eq hhi, formatA_fields]

theorem formatXKK_of_fields (hhi : (fieldHi w).toNat = hi.toNat) (hkk : (fieldKK w).toNat = kk.toNat) :
    formatXKK hi (fieldX w) kk = w := by
  rw [← BitVec.eq_of_toNat_eq hhi, ← BitVec.eq_of_toNat_eq hkk, formatXKK_fields]

theorem formatXYN_of_fields (hhi : (fieldHi w).toNat = hi.toNat) (hn : (fieldN w).toNat = n.toNat) :
    formatXYN hi (fieldX w) (fieldY w) n = w := by
  rw [← BitVec.eq_of_toNat_eq hhi, ← BitVec.eq_of_toNat_eq hn, formatXYN_fields]

theorem encode_decodeFamily0 (hhi : (fieldHi w).toNat = 0x0) : encode (decodeFamily0 w) = w := by
  rw [decodeFamily0]
  split_ifs with hcls hret
  · exact hcls.symm
  · exact hret.symm
  · exact formatA_of_fields hhi

theorem encode_decodeFamily8 (hhi : (fieldHi w).toNat = 0x8) : encode (decodeFamily8 w) = w := by
  rw [decodeFamily8]
  split
  case h_10 => rfl
  all_goals exact formatXYN_of_fields hhi ‹_›

theorem encode_decodeFamilyE (hhi : (fieldHi w).toNat = 0xE) : encode (decodeFamilyE w) = w := by
  rw [decodeFamilyE]
  split
  case h_3 => rfl
  all_goals exact formatXKK_of_fields hhi ‹_›

theorem encode_decodeFamilyF (hhi : (fieldHi w).toNat = 0xF) : encode (decodeFamilyF w) = w := by
  rw [decodeFamilyF]
  split
  case h_10 => rfl
  all_goals exact formatXKK_of_fields hhi ‹_›

end

/-- Encoding gives every word back, family by family (R83): a decoded instruction keeps each field its row does not
fix. -/
theorem encode_decode (w : Word) : encode (decode w) = w := by
  unfold decode
  -- Case `h_k` is family `k - 1`; the last has no match of its own, only that it is none of the others.
  split <;> rename_i hhi
  case h_1 => exact encode_decodeFamily0 hhi
  case h_9 => exact encode_decodeFamily8 hhi
  case h_15 => exact encode_decodeFamilyE hhi
  case h_16 =>
    have hlt : (fieldHi w).toNat < 16 := (fieldHi w).isLt
    exact encode_decodeFamilyF (by grind)
  case h_6 | h_10 =>
    split_ifs with hn
    · exact formatXYN_of_fields hhi (congrArg BitVec.toNat hn)
    · rfl
  case h_2 | h_3 | h_11 | h_12 => exact formatA_of_fields hhi
  case h_14 => exact formatXYN_of_fields hhi rfl
  all_goals exact formatXKK_of_fields hhi rfl

end Sys2Proof

namespace Sys2Proof.Machine

/-! ### What an instruction does to memory (R52, R57) -/

/-- No instruction but FX33 and FX55 touches memory. -/
theorem exec_mem_of_not_store {i : Instr} {s t : State} (h : exec i s = .next t)
    (hi : ∀ x, i ≠ .ldB x ∧ i ≠ .ldMem x) : t.mem = s.mem := by
  cases i with
  | ldB x => exact absurd rfl (hi x).1
  | ldMem x => exact absurd rfl (hi x).2
  | ret => rw [exec_ret_frame h]
  | call nnn => rw [exec_call_frame h]
  | _ => cases h; simp

/-- Every instruction keeps memory in canonical form. -/
theorem Memory.wf_of_exec {i : Instr} {s t : State} (h : exec i s = .next t) (hwf : Memory.wf s.mem = true) :
    Memory.wf t.mem = true := by
  by_cases hi : ∃ x, i = .ldB x ∨ i = .ldMem x
  · obtain ⟨x, rfl | rfl⟩ := hi
    · cases h
      exact State.wf_writeMem (State.wf_writeMem (State.wf_writeMem hwf _ _) _ _) _ _
    · cases h
      exact State.wf_storeBlock hwf _
  · push Not at hi
    rwa [exec_mem_of_not_store h hi]

/-! ### The invariant (R28, R30, R34, R50, R272) -/

section
variable {s t : State}

/-- In a running engine, no wait pending and no fault, only the memory and the stack are left to check. -/
theorem Inv.of_running (hmem : Memory.wf t.mem = true) (hstack : t.stack.length ≤ 16) (hl : t.launched = true)
    (hf : t.fault = none) (hw : t.wait = .idle) : Inv t where
  memoryCanonical := hmem
  stackBounded := hstack
  waitIsFetched _ hx := nomatch hw.symm.trans hx
  faultRecorded _ hr := nomatch hf.symm.trans hr
  atStartUntilReset hn := nomatch hl.symm.trans hn

/-- Taking a fault keeps the invariant: the record holds pc and the word there, so what is left is the cause's own
condition (R241 to R244). -/
theorem Inv.raiseFault (hs : Inv s) (hl : s.launched = true) (hw : s.wait = .idle) {cause : FaultCause}
    (hu : cause = .stackUnderflow → s.stack = [] ∧ decode s.fetch = .ret)
    (ho : cause = .stackOverflow → s.stack.length = 16 ∧ ∃ nnn, decode s.fetch = .call nnn) :
    Inv (s.raiseFault cause (decode s.fetch)) where
  memoryCanonical := hs.memoryCanonical
  stackBounded := hs.stackBounded
  waitIsFetched := hs.waitIsFetched
  faultRecorded record hr := by
    obtain rfl : _ = record := Option.some.inj hr
    have hword : encode (decode s.fetch) = s.fetch := encode_decode _
    exact ⟨hw, rfl, hword, hword.symm ▸ hu, hword.symm ▸ ho⟩
  atStartUntilReset hn := nomatch hl.symm.trans hn

/-- The first step of FX0A keeps the invariant: pc stays, so it still addresses the FX0A that waits (R213). -/
theorem Inv.startWait (hs : Inv s) (hl : s.launched = true) (hf : s.fault = none) {x : Reg}
    (hx : decode s.fetch = .ldK x) : Inv (s.clearReleased.setWait (.waiting x)) where
  memoryCanonical := hs.memoryCanonical
  stackBounded := hs.stackBounded
  waitIsFetched y hy := by
    cases hy
    exact hx
  faultRecorded _ hr := nomatch hf.symm.trans hr
  atStartUntilReset hn := nomatch hl.symm.trans hn

/-- A poll keeps the invariant: it leaves the wait pending or ends it (R214). -/
theorem Inv.pollKey (hs : Inv s) (hl : s.launched = true) (hf : s.fault = none) (x : Reg) : Inv (s.pollKey x) := by
  cases hslot : s.keys.lastReleased with
  | none => rwa [State.pollKey_none hslot]
  | some key =>
    rw [State.pollKey_some hslot]
    exact .of_running hs.memoryCanonical hs.stackBounded hl hf rfl

/-- The instruction at pc keeps the invariant. RET and CALL move the stack or take a fault, FX0A starts a wait; every other
instruction leaves the stack, the wait and the fault record alone. -/
theorem Inv.exec_fetched (hs : Inv s) (hl : s.launched = true) (hf : s.fault = none) (hw : s.wait = .idle)
    (h : exec (decode s.fetch) s = .next t) : Inv t := by
  have hmem := Memory.wf_of_exec h hs.memoryCanonical
  have hstack := hs.stackBounded
  cases hi : decode s.fetch <;> rw [hi] at h
  case ret =>
    obtain ⟨hempty, rfl⟩ | ⟨rest, target, hpop, rfl⟩ := exec_ret_cases h
    · rw [← hi]
      exact hs.raiseFault hl hw (fun _ => ⟨hempty, hi⟩) nofun
    · exact .of_running hmem (by simp; omega) hl hf hw
  case call nnn =>
    obtain ⟨hroom, rfl⟩ | ⟨hfull, rfl⟩ := exec_call_cases h
    · exact .of_running hmem (by simp; omega) hl hf hw
    · rw [← hi]
      exact hs.raiseFault hl hw nofun fun _ => ⟨by omega, nnn, hi⟩
  case ldK x =>
    cases h
    exact hs.startWait hl hf hi
  all_goals
    cases h
    exact .of_running hmem (by simpa using hstack) (by simpa using hl) (by simpa using hf) (by simpa using hw)

theorem Inv.engineStep (hs : Inv s) (h : engineStep s = .next t) : Inv t := by
  obtain ⟨hl, hf, ⟨x, _, rfl⟩ | ⟨hw, h⟩⟩ := engineStep_cases h
  · exact hs.pollKey hl hf x
  · exact hs.exec_fetched hl hf hw h

/-- The invariant looks at the timers before the first Reset only, and at the keys and the turns never. -/
theorem Inv.with_events (hs : Inv s) {dt st : Byte} (hstart : s.launched = false → dt = 0 ∧ st = 0) (keys : Keys)
    (schedule : List Turn) : Inv { s with dt := dt, st := st, keys := keys, schedule := schedule } where
  memoryCanonical := hs.memoryCanonical
  stackBounded := hs.stackBounded
  waitIsFetched := hs.waitIsFetched
  faultRecorded record hr := { hs.faultRecorded record hr with }
  atStartUntilReset hn := by
    obtain ⟨rfl, rfl⟩ := hstart hn
    obtain ⟨_, _, hreset⟩ := hs.atStartUntilReset hn
    exact ⟨keys, schedule, by rw [hreset]; rfl⟩

theorem Inv.timers_zero (hs : Inv s) (hn : s.launched = false) : s.dt = 0 ∧ s.st = 0 := by
  obtain ⟨_, _, hreset⟩ := hs.atStartUntilReset hn
  rw [hreset]
  exact ⟨rfl, rfl⟩

theorem Inv.take_turn (hs : Inv s) (rest : List Turn) : Inv { s with schedule := rest } :=
  hs.with_events hs.timers_zero s.keys rest

/-- A Tick keeps the invariant: the timers of an engine not yet launched are 0 and stay 0 (R220). -/
theorem Inv.tick (hs : Inv s) : Inv s.tick := by
  cases hf : s.fault with
  | some record => rwa [State.tick_of_fault hf]
  | none =>
    rw [State.tick_of_no_fault hf]
    refine hs.with_events (fun hn => ?_) s.keys s.schedule
    obtain ⟨hdt, hst⟩ := hs.timers_zero hn
    rw [hdt, hst]
    exact ⟨rfl, rfl⟩

theorem Inv.applyEvent (hs : Inv s) (e : HostEvent) : Inv (s.applyEvent e) := by
  cases e with
  | tick => exact hs.tick
  | press k => exact hs.with_events hs.timers_zero _ s.schedule
  | release k => exact hs.with_events hs.timers_zero _ s.schedule
  | reset rom => exact inv_hostReset s rom

end

/-- Settles O57: a step is a host event or an engine step with its turn taken off the schedule, and taking the turn, each
event and each engine step keep the invariant. -/
theorem everyStepKeepsInvariant : Obligations.EveryStepKeepsInvariant := by
  intro s t hs h
  obtain ⟨e, rest, _, rfl⟩ | ⟨rest, _, h⟩ := step_cases h
  · exact (hs.take_turn rest).applyEvent e
  · exact (hs.take_turn rest).engineStep h

/-! ### Where the stores write (R53, R57) -/

/-- Outside its three bytes FX33 leaves memory as it was. -/
theorem readMem_of_exec_ldB_of_ne {s t : State} {x : Reg} {a : Addr} (hwf : Memory.wf s.mem = true)
    (h : exec (.ldB x) s = .next t) (hout : ∀ k < 3, a ≠ s.dataAddr k) : t.readMem a = s.readMem a := by
  rw [readMem_of_exec_ldB hwf h, if_neg (hout 2 (by omega)), if_neg (hout 1 (by omega)), if_neg (hout 0 (by omega))]

/-- Settles O50: a byte that no store covers reads as before, so a changed byte is one of FX33's three or one of FX55's
block; every other instruction leaves memory as it is. -/
theorem memoryWrittenOnlyByStores : Obligations.MemoryWrittenOnlyByStores := by
  intro i s t a hwf h hne
  by_cases hi : ∃ x, i = .ldB x ∨ i = .ldMem x
  · obtain ⟨x, rfl | rfl⟩ := hi
    · left
      by_contra! hout
      exact hne (readMem_of_exec_ldB_of_ne hwf h fun k hk => hout x k rfl hk)
    · right
      by_contra! hout
      cases h
      exact hne (State.readMem_storeBlock_of_ne hwf fun k hk => hout x k rfl (by omega))
  · push Not at hi
    exact absurd (congrArg (Memory.read · a) (exec_mem_of_not_store h hi)) hne

/-! ### A store to the next instruction's bytes (R60, R281, D24) -/

theorem State.dataAddr_eq_iff (s : State) {j k : Nat} (hj : j < 4096) (hk : k < 4096) :
    s.dataAddr j = s.dataAddr k ↔ j = k :=
  ⟨s.dataAddr_inj hj hk, congrArg s.dataAddr⟩

/-- The three digits lie at distinct addresses, so the order of the writes does not matter. -/
theorem holdsAfterStore_ldB {s t : State} {x : Reg} (hwf : Memory.wf s.mem = true) (h : exec (.ldB x) s = .next t)
    (a : Addr) :
    HoldsAfterStore s [bcdHundreds (s.getV x), bcdTens (s.getV x), bcdOnes (s.getV x)] a (t.readMem a) := by
  refine ⟨fun k hk ha => ?_, readMem_of_exec_ldB_of_ne hwf h⟩
  obtain rfl : a = s.dataAddr k := ha
  rw [readMem_of_exec_ldB hwf h]
  match k, hk with
  | 0, _ | 1, _ | 2, _ => simp [State.dataAddr_eq_iff]

theorem holdsAfterStore_ldMem {s t : State} {x : Reg} (hwf : Memory.wf s.mem = true) (h : exec (.ldMem x) s = .next t)
    (a : Addr) :
    HoldsAfterStore s ((List.range (x.toNat + 1)).map fun k => s.getV (BitVec.ofNat 4 k)) a (t.readMem a) := by
  have hx : x.toNat < 16 := x.isLt
  cases h
  refine ⟨fun k hk ha => ?_, fun hout => ?_⟩
  · obtain rfl : a = s.dataAddr k := ha
    rw [List.length_map, List.length_range] at hk
    rw [List.getElem_map, List.getElem_range]
    exact State.readMem_storeBlock hwf (by omega) hk
  · rw [List.length_map, List.length_range] at hout
    exact State.readMem_storeBlock_of_ne hwf hout

/-- FX33 and FX55 change memory and advance pc; no other part moves. -/
theorem exec_store_frame {i : Instr} {x : Reg} {s t : State} (hi : i = .ldB x ∨ i = .ldMem x)
    (h : exec i s = .next t) : t = { s with mem := t.mem, pc := s.pc + 2 } := by
  obtain rfl | rfl := hi
  · cases h
    rfl
  · cases h
    rw [State.storeBlock_eq]
    rfl

/-- After an advance the fetch reads the two bytes after the instruction that ran. -/
theorem State.fetch_of_advanced {s t : State} (hpc : t.pc = s.pc + 2) :
    t.fetch = wordOfBytes (t.readMem (A12 (s.pc.toNat + 2))) (t.readMem (A12 (s.pc.toNat + 3))) := by
  have hto : t.pc.toNat = (s.pc.toNat + 2) % 65536 := by rw [hpc]; exact BitVec.toNat_add ..
  have hhi : A12 t.pc.toNat = A12 (s.pc.toNat + 2) := by rw [A12_eq_iff]; omega
  have hlo : A12 (t.pc.toNat + 1) = A12 (s.pc.toNat + 3) := by rw [A12_eq_iff]; omega
  rw [State.fetch, hhi, hlo]

/-- The engine's turn runs the instruction at pc (R70). -/
theorem step_of_engineMoves {s : State} {rest : List Turn} (hf : s.fault = none) (hw : s.wait = .idle)
    (hmoves : EngineMoves s rest) : step s = exec (decode s.fetch) { s with schedule := rest } := by
  obtain ⟨hl, hturn | ⟨hnil, rfl⟩⟩ := hmoves
  · rw [step_of_engine hturn]
    exact engineStep_idle hl hf hw
  · rw [step_of_nil hnil, engineStep_idle hl hf hw, ← hnil]

/-- Settles O35: each byte of the next instruction is what memory holds after the store, and the store leaves everything
but memory and pc, so the engine that was to move next still is. -/
theorem storedBytesAreFetchedNext : Obligations.StoredBytesAreFetchedNext := by
  intro i x stored s hwf hi
  obtain ⟨t, h⟩ := exec_next i s
  have hmem : ∀ a, HoldsAfterStore s stored a (t.readMem a) := by
    obtain ⟨rfl, rfl⟩ | ⟨rfl, rfl⟩ := hi
    · exact holdsAfterStore_ldB hwf h
    · exact holdsAfterStore_ldMem hwf h
  have ht := exec_store_frame (hi.imp And.left And.left) h
  have hpc : t.pc = s.pc + 2 := by rw [ht]
  have hfetch := State.fetch_of_advanced hpc
  refine ⟨t, _, _, h, hpc, hfetch, hmem _, hmem _, fun rest hf hw hmoves => ?_⟩
  rw [← hfetch]
  exact step_of_engineMoves (by rwa [ht]) (by rwa [ht]) (by rwa [ht])

end Sys2Proof.Machine

namespace Sys2Proof.Laws.MatchesRow

/-- The encoder's word of every instruction lies in its row: the cases above together. -/
theorem of_instr : ∀ i, Statement i
  | .cls => cls | .ret => ret | .sys _ => sys .. | .jp _ => jp .. | .call _ => call ..
  | .seImm _ _ => seImm .. | .sneImm _ _ => sneImm .. | .seReg _ _ => seReg .. | .ldImm _ _ => ldImm ..
  | .addImm _ _ => addImm .. | .ldReg _ _ => ldReg .. | .or _ _ => or .. | .and _ _ => and ..
  | .xor _ _ => xor .. | .addReg _ _ => addReg .. | .sub _ _ => sub .. | .shr _ _ => shr ..
  | .subn _ _ => subn .. | .shl _ _ => shl .. | .sneReg _ _ => sneReg .. | .ldI _ => ldI ..
  | .jpV0 _ => jpV0 .. | .rnd _ _ => rnd .. | .drw _ _ _ => drw .. | .skp _ => skp .. | .sknp _ => sknp ..
  | .ldXDT _ => ldXDT .. | .ldK _ => ldK .. | .ldDT _ => ldDT .. | .ldST _ => ldST .. | .addI _ => addI ..
  | .ldF _ => ldF .. | .ldB _ => ldB .. | .ldMem _ => ldMem .. | .ldXMem _ => ldXMem .. | .nop _ => nop ..

end Sys2Proof.Laws.MatchesRow

namespace Sys2Proof

/-! ### What the decoder reads of a word (R77 to R82) -/

section
variable {v w : Word}

/-- A word of family 0x0 is CLS's, RET's or SYS's (R78). -/
theorem decode_family0_cases (hhi : fieldHi w = 0x0#4) :
    w = 0x00E0#16 ∨ w = 0x00EE#16 ∨ decode w = .sys (fieldNNN w) := by
  have hdecode : decode w = decodeFamily0 w := by simp [decode, hhi]
  rw [hdecode, decodeFamily0]
  split_ifs with hcls hret
  · exact .inl hcls
  · exact .inr (.inl hret)
  · exact .inr (.inr rfl)

theorem variant_decodeFamily8_congr (hn : fieldN v = fieldN w) :
    (decodeFamily8 v).variant = (decodeFamily8 w).variant := by
  unfold decodeFamily8
  rw [hn]
  split <;> rfl

theorem variant_decodeFamilyE_congr (hkk : fieldKK v = fieldKK w) :
    (decodeFamilyE v).variant = (decodeFamilyE w).variant := by
  unfold decodeFamilyE
  rw [hkk]
  split <;> rfl

theorem variant_decodeFamilyF_congr (hkk : fieldKK v = fieldKK w) :
    (decodeFamilyF v).variant = (decodeFamilyF w).variant := by
  unfold decodeFamilyF
  rw [hkk]
  split <;> rfl

/-- Which variant a word is depends on its family, and beyond that on the low nybble in families 0x5, 0x8 and 0x9, on the
low byte in 0xE and 0xF, and on the whole word in 0x0 only (R78 to R82). -/
theorem variant_decode_congr (hhi : fieldHi v = fieldHi w) (h0 : (fieldHi w).toNat = 0x0 → v = w)
    (hn : (fieldHi w).toNat ∈ [0x5, 0x8, 0x9] → fieldN v = fieldN w)
    (hkk : 0xE ≤ (fieldHi w).toNat → fieldKK v = fieldKK w) : (decode v).variant = (decode w).variant := by
  unfold decode
  rw [hhi]
  -- Case `h_k` is family `k - 1`.
  split <;> rename_i hf
  case h_1 => rw [h0 hf]
  case h_6 | h_10 =>
    rw [hn (by simp [hf])]
    split <;> rfl
  case h_9 => exact variant_decodeFamily8_congr (hn (by simp [hf]))
  case h_15 => exact variant_decodeFamilyE_congr (hkk hf.ge)
  case h_16 => exact variant_decodeFamilyF_congr (hkk (by grind))
  all_goals rfl

end

/-! ### The opcode table's rows (R83, R85) -/

theorem fieldHi_and (v w : Word) : fieldHi (v &&& w) = fieldHi v &&& fieldHi w := BitVec.extractLsb'_and

theorem fieldN_and (v w : Word) : fieldN (v &&& w) = fieldN v &&& fieldN w := BitVec.extractLsb'_and

theorem fieldKK_and (v w : Word) : fieldKK (v &&& w) = fieldKK v &&& fieldKK w := BitVec.extractLsb'_and

/-- A row's mask covers all the bits that its family is keyed by. -/
theorem mask_covers_key : ∀ row ∈ opcodeRows, fieldHi row.mask = 0xF#4 ∧
    ((fieldHi row.value).toNat = 0x0 → row.mask = BitVec.allOnes 16) ∧
    ((fieldHi row.value).toNat ∈ [0x5, 0x8, 0x9] → fieldN row.mask = 0xF#4) ∧
    (0xE ≤ (fieldHi row.value).toNat → fieldKK row.mask = 0xFF#8) := by decide

theorem variant_decode_value : ∀ row ∈ opcodeRows, (decode row.value).variant = row.variant := by decide

theorem row_variant_ne_nop : ∀ row ∈ opcodeRows, row.variant ≠ .nop := by decide

theorem nodup_row_variants : (opcodeRows.map OpcodeRow.variant).Nodup := by decide

section
variable {w : Word}

/-- A word in a row decodes to the row's variant: it agrees with the row's own value on every bit the decoder reads. -/
theorem variant_decode_of_rowMatches {row : OpcodeRow} (hrow : row ∈ opcodeRows) (h : rowMatches row w = true) :
    (decode w).variant = row.variant := by
  obtain ⟨hhi, h0, hn, hkk⟩ := mask_covers_key row hrow
  have hvalue : row.value = w &&& row.mask := (beq_iff_eq.1 h).symm
  rw [← variant_decode_value row hrow]
  refine variant_decode_congr ?_ (fun hf => ?_) (fun hf => ?_) fun hf => ?_
  · rw [hvalue, fieldHi_and, hhi, and_ones4]
  · rw [hvalue, h0 hf, BitVec.and_allOnes]
  · rw [hvalue, fieldN_and, hn hf, and_ones4]
  · rw [hvalue, fieldKK_and, hkk hf, and_ones8]

/-- A word that decodes to an operative instruction lies in the row of its variant. -/
theorem exists_rowMatches_of_operative (hop : (decode w).variant ≠ .nop) :
    ∃ row ∈ opcodeRows, row.variant = (decode w).variant ∧ rowMatches row w = true := by
  have hrow := (Laws.MatchesRow.of_instr (decode w)).resolve_left hop
  rwa [encode_decode] at hrow

theorem decodeMiss_iff : decodeMiss w = true ↔ ∀ row ∈ opcodeRows, rowMatches row w = false := by
  simp [decodeMiss]

/-- The words that match no row are the words of the no-op (R85). -/
theorem decodeMiss_iff_variant_nop : decodeMiss w = true ↔ (decode w).variant = .nop := by
  rw [decodeMiss_iff]
  refine ⟨fun hmiss => ?_, fun hnop row hrow => ?_⟩
  · by_contra hop
    obtain ⟨row, hrow, _, hmatch⟩ := exists_rowMatches_of_operative hop
    exact absurd hmatch (by simp [hmiss row hrow])
  · by_contra hmatch
    rw [Bool.not_eq_false] at hmatch
    exact row_variant_ne_nop row hrow ((variant_decode_of_rowMatches hrow hmatch).symm.trans hnop)

/-! ### Encoding, then decoding (R72 to R83) -/

theorem decode_encode_sys {nnn : Addr} (hcls : nnn ≠ 0x0E0#12) (hret : nnn ≠ 0x0EE#12) :
    decode (encode (.sys nnn)) = .sys nnn := by
  have hnnn : fieldNNN (encode (.sys nnn)) = nnn := fieldNNN_formatA ..
  obtain h | h | h := decode_family0_cases (w := encode (.sys nnn)) (fieldHi_formatA ..)
  · exact absurd (hnnn.symm.trans (congrArg fieldNNN h)) hcls
  · exact absurd (hnnn.symm.trans (congrArg fieldNNN h)) hret
  · rw [h, hnnn]

theorem fieldHi_of_decode_sys {nnn : Addr} (h : decode w = .sys nnn) : fieldHi w = 0x0#4 := by
  rw [← encode_decode w, h]
  exact fieldHi_formatA ..

theorem word_of_decode_nop {v : Word} (h : decode w = .nop v) : v = w := by
  rw [← encode_decode w, h]
  rfl

/-- A word outside family 0x0 that matches no row is its own no-op. -/
theorem decode_of_miss (hmiss : decodeMiss w = true) (hhi : fieldHi w ≠ 0x0#4) : decode w = .nop w := by
  have hnop := decodeMiss_iff_variant_nop.1 hmiss
  cases hi : decode w with
  | sys nnn => exact absurd (fieldHi_of_decode_sys hi) hhi
  | nop v => rw [word_of_decode_nop hi]
  | _ => rw [hi] at hnop; nomatch hnop

/-- Decoding gives every well-formed instruction back. The decoder reads the fields of the format that the encoder
built; the two no-ops are the words that no operative row claims. -/
theorem decode_encode {i : Instr} (hwf : i.wellFormed = true) : decode (encode i) = i := by
  cases i with
  | sys nnn =>
    obtain ⟨hcls, hret⟩ : nnn ≠ 0x0E0 ∧ nnn ≠ 0x0EE := by simpa [Instr.wellFormed] using hwf
    exact decode_encode_sys hcls hret
  | nop v =>
    obtain ⟨hmiss, hhi⟩ : decodeMiss v = true ∧ fieldHi v ≠ 0x0 := by simpa [Instr.wellFormed] using hwf
    exact decode_of_miss hmiss hhi
  | cls | ret => rfl
  | ldReg | or | and | xor | addReg | sub | shr | subn | shl => simp [encode, decode, decodeFamily8]
  | skp | sknp => simp [encode, decode, decodeFamilyE]
  | ldXDT | ldK | ldDT | ldST | addI | ldF | ldB | ldMem | ldXMem => simp [encode, decode, decodeFamilyF]
  | _ => simp [encode, decode]

/-- Settles O1: the round trip of each instruction through its format. -/
theorem decodeEncodeRoundTrip : Obligations.DecodeEncodeRoundTrip := fun _ hwf => decode_encode hwf

/-! ### Decoding, then encoding (R83, R84) -/

/-- Decoding gives well-formed instructions only. A SYS with a word of CLS or RET is excluded because that word decodes to
CLS or RET, a NOP in family 0x0 because none of that family's words is a NOP. -/
theorem wellFormed_decode (w : Word) : (decode w).wellFormed = true := by
  cases hi : decode w with
  | sys nnn =>
    have hw : w = formatA 0x0 nnn := by rw [← encode_decode w, hi]; rfl
    have hcls : nnn ≠ 0x0E0#12 := by rintro rfl; subst hw; nomatch hi
    have hret : nnn ≠ 0x0EE#12 := by rintro rfl; subst hw; nomatch hi
    simp [Instr.wellFormed, hcls, hret]
  | nop v =>
    obtain rfl := word_of_decode_nop hi
    have hmiss : decodeMiss v = true := decodeMiss_iff_variant_nop.2 (by rw [hi]; rfl)
    have hhi : fieldHi v ≠ 0x0#4 := by
      intro hzero
      obtain rfl | rfl | h := decode_family0_cases hzero
      · nomatch hi
      · nomatch hi
      · nomatch hi.symm.trans h
    simp [Instr.wellFormed, hmiss, hhi]
  | _ => rfl

/-- Settles O2: the decoder answers well-formed instructions, and encoding gives each word back. -/
theorem encodeDecodeRoundTrip : Obligations.EncodeDecodeRoundTrip := fun w =>
  ⟨wellFormed_decode w, encode_decode w⟩

/-! ### The table's rows and the decoder (R83, R85) -/

/-- The rows a word lies in have the decoded variant, and there is one unless that is the no-op. -/
theorem mem_matching_variants (w : Word) (v : Variant) :
    v ∈ (opcodeRows.filter (rowMatches · w)).map OpcodeRow.variant ↔ v = (decode w).variant ∧ v ≠ .nop := by
  simp only [List.mem_map, List.mem_filter]
  constructor
  · rintro ⟨row, ⟨hrow, hmatch⟩, rfl⟩
    exact ⟨(variant_decode_of_rowMatches hrow hmatch).symm, row_variant_ne_nop row hrow⟩
  · rintro ⟨rfl, hop⟩
    obtain ⟨row, hrow, hv, hmatch⟩ := exists_rowMatches_of_operative hop
    exact ⟨row, ⟨hrow, hmatch⟩, hv⟩

/-- Settles O3: the variants of the rows a word lies in are, as a set, the decoded one or none; and as no two rows share a
variant, none is listed twice. -/
theorem decodeFollowsOpcodeTable : Obligations.DecodeFollowsOpcodeTable := by
  intro w
  have hnodup : ((opcodeRows.filter (rowMatches · w)).map OpcodeRow.variant).Nodup :=
    nodup_row_variants.sublist (List.filter_sublist.map _)
  split_ifs with hnop
  · rw [List.eq_nil_iff_forall_not_mem]
    intro v hv
    obtain ⟨rfl, hop⟩ := (mem_matching_variants w v).1 hv
    exact hop hnop
  · rw [← List.perm_singleton, List.perm_ext_iff_of_nodup hnodup (List.nodup_singleton _)]
    intro v
    rw [mem_matching_variants, List.mem_singleton]
    exact and_iff_left_of_imp fun hv => hv ▸ hnop

end

/-- Settles O4: the two words by evaluation; the words up to 0x0FFF are family 0x0, where SYS is all that is left. -/
theorem familyZeroMatchesWholeWords : Obligations.FamilyZeroMatchesWholeWords := by
  refine ⟨rfl, rfl, fun w hle hcls hret => ?_⟩
  have hhi : fieldHi w = 0x0#4 := by
    apply BitVec.eq_of_toNat_eq
    rw [toNat_fieldHi]
    exact Nat.div_eq_of_lt (by omega)
  obtain h | h | h := decode_family0_cases hhi
  · exact absurd h hcls
  · exact absurd h hret
  · rw [h]
    rfl

/-- Settles O5, by evaluating the decoder on each listed word. -/
theorem sampleWordsDecode : Obligations.SampleWordsDecode := by
  unfold Obligations.SampleWordsDecode
  decide

end Sys2Proof

namespace Sys2Proof.Machine

/-! ### The no-op (R85, R101) -/

theorem State.advance_changesOnly (s : State) : ChangesOnly s s.advance [.pc] := by
  intro p hp
  cases p with
  | pc => exact absurd List.mem_cons_self hp
  | _ => rfl

theorem exec_of_variant_nop {i : Instr} (hi : i.variant = .nop) (s : State) : exec i s = .next s.advance := by
  cases i with
  | sys nnn => exact exec_sys s nnn
  | nop w => exact exec_nop s w
  | _ => nomatch hi

/-- Settles O15: the rows and the decoder leave the same words to the no-op, and both its forms advance pc only. -/
theorem noOpWordsOnlyAdvance : Obligations.NoOpWordsOnlyAdvance :=
  ⟨fun _ => decodeMiss_iff_variant_nop, fun _ s hi =>
    ⟨s.advance, exec_of_variant_nop hi s, s.advance_pc, s.advance_changesOnly⟩⟩

/-! ### Fetch and step (R70, R71) -/

theorem A12_eq_ofNat_mod (n : Nat) : A12 n = BitVec.ofNat 12 (n % 4096) :=
  (A12_eq_iff ..).2 (Nat.mod_mod ..).symm

/-- Settles O6: the two bytes of the fetched word as numbers. -/
theorem fetchReadsTwoMaskedBytes : Obligations.FetchReadsTwoMaskedBytes := by
  intro s
  rw [State.fetch, toNat_wordOfBytes, A12_eq_ofNat_mod, A12_eq_ofNat_mod]

/-- Settles O7: the engine's turn runs the instruction decoded from the fetched word, whose bytes are those at pc. -/
theorem stepRunsDecodedInstruction : Obligations.StepRunsDecodedInstruction := by
  rintro s rest _ hf hw hmoves rfl
  exact step_of_engineMoves hf hw hmoves

end Sys2Proof.Machine

namespace Sys2Proof.Machine

/-! ### What moving pc and the stack leaves unchanged (R24, R28) -/

theorem State.setPC_changesOnly (s : State) (a : Word) : ChangesOnly s (s.setPC a) [.pc] := by
  intro p hp
  cases p with
  | pc => exact absurd List.mem_cons_self hp
  | _ => rfl

theorem changesOnly_pc_stack (s : State) (a : Word) (stack : List Word) :
    ChangesOnly s { s with pc := a, stack := stack } [.pc, .stack] := by
  intro p hp
  cases p with
  | pc | stack => simp at hp
  | _ => rfl

/-! ### Return, jumps and call (R102 to R104, R109) -/

/-- Settles O16: RET jumps to the newest entry, and dropping that entry leaves the older ones. -/
theorem returnPopsNewestAddress : Obligations.ReturnPopsNewestAddress := by
  intro s rest target hstack
  have hrest : (s.dropTop.setPC target).stack = rest := by
    rw [State.setPC_stack, State.dropTop_stack, hstack, List.dropLast_concat]
  exact ⟨_, exec_ret_push hstack, rfl, hrest, changesOnly_pc_stack _ _ _⟩

theorem toNat_zextAddr (nnn : Addr) : (zextAddr nnn).toNat = nnn.toNat :=
  BitVec.toNat_setWidth_of_le (by decide)

theorem toNat_zextByte (b : Byte) : (zextByte b).toNat = b.toNat :=
  BitVec.toNat_setWidth_of_le (by decide)

/-- The sum of an address and a byte fits in 16 bits (R109). -/
theorem toNat_zextAddr_add_zextByte (nnn : Addr) (b : Byte) :
    (zextAddr nnn + zextByte b).toNat = nnn.toNat + b.toNat := by
  have hnnn : nnn.toNat < 4096 := nnn.isLt
  have hb : b.toNat < 256 := b.isLt
  have hfits : (zextAddr nnn).toNat + (zextByte b).toNat < 2 ^ 16 := by
    rw [toNat_zextAddr, toNat_zextByte]
    omega
  rw [BitVec.toNat_add_of_lt hfits, toNat_zextAddr, toNat_zextByte]

/-- Settles O18: both targets as numbers; a jump writes pc only. -/
theorem jumpsSetPC : Obligations.JumpsSetPC := fun nnn s =>
  ⟨⟨_, exec_jp .., toNat_zextAddr nnn, s.setPC_changesOnly _⟩,
    ⟨_, exec_jpV0 .., toNat_zextAddr_add_zextByte nnn _, s.setPC_changesOnly _⟩⟩

/-- Settles O19: CALL with room is a push and a jump. -/
theorem callPushesReturnAddress : Obligations.CallPushesReturnAddress := fun nnn _ hroom =>
  ⟨_, exec_call_room hroom nnn, rfl, toNat_zextAddr nnn, changesOnly_pc_stack _ _ _⟩

/-! ### Skips (R25, R105 to R108) -/

/-- An instruction that is a `skipIf` advances by 4 when its condition is true and by 2 when it is false. -/
theorem exec_skipIf_outcome {i : Instr} {s : State} {c : Bool} {taken passed : Prop}
    (h : exec i s = .next (s.skipIf c)) (htaken : taken → c = true) (hpassed : passed → c = false) :
    ∃ t, exec i s = .next t ∧ (taken → t.pc = s.pc + 4#16) ∧ (passed → t.pc = s.pc + 2#16) ∧
      ChangesOnly s t [.pc] := by
  refine ⟨_, h, fun ht => ?taken, fun hp => ?passed, s.setPC_changesOnly _⟩
  case taken => rw [htaken ht]; rfl
  case passed => rw [hpassed hp]; rfl

/-- Settles O21: each skip's condition is the comparison of its two operands, or its negation. -/
theorem skipsAdvanceByComparison : Obligations.SkipsAdvanceByComparison := fun _ _ _ _ =>
  ⟨exec_skipIf_outcome (exec_seImm ..) beq_iff_eq.2 beq_eq_false_iff_ne.2,
    exec_skipIf_outcome (exec_sneImm ..) bne_iff_ne.2 bne_eq_false_iff_eq.2,
    exec_skipIf_outcome (exec_seReg ..) beq_iff_eq.2 beq_eq_false_iff_ne.2,
    exec_skipIf_outcome (exec_sneReg ..) bne_iff_ne.2 bne_eq_false_iff_eq.2⟩

/-! ### The stack law (R110) -/

theorem State.setPC_setPC (s : State) (a b : Word) : (s.setPC a).setPC b = s.setPC b := rfl

theorem State.dropTop_setPC (s : State) (a : Word) : (s.setPC a).dropTop = s.dropTop.setPC a := rfl

theorem State.dropTop_push (s : State) (a : Word) : (s.push a).dropTop = s := by
  rw [State.dropTop, State.push, List.dropLast_concat]

/-- RET after CALL pops the pushed address into pc, and the stack is what it was. -/
theorem exec_ret_of_push (s : State) (a b : Word) : exec .ret ((s.push a).setPC b) = .next (s.setPC a) := by
  have hstack : ((s.push a).setPC b).stack = s.stack ++ [a] := rfl
  rw [exec_ret_push hstack, State.dropTop_setPC, State.setPC_setPC, State.dropTop_push]

/-- With pc at an address the fetch reads its byte and the next one. -/
theorem State.fetch_setPC_zextAddr (s : State) (nnn : Addr) :
    (s.setPC (zextAddr nnn)).fetch = wordOfBytes (s.readMem nnn) (s.readMem (nnn + 1#12)) := by
  have hnext : A12 (nnn.toNat + 1) = nnn + 1#12 := by
    rw [A12, BitVec.ofNat_add, BitVec.ofNat_toNat, BitVec.setWidth_eq]
  rw [State.fetch, State.setPC_pc, toNat_zextAddr, A12_toNat_self, hnext, State.setPC_readMem, State.setPC_readMem]

/-- The engine's step when no turn is listed (R70). -/
theorem step_of_idle {s : State} (hl : s.launched = true) (hf : s.fault = none) (hw : s.wait = .idle)
    (hnil : s.schedule = []) : step s = exec (decode s.fetch) s := by
  rw [step_of_nil hnil, engineStep_idle hl hf hw]

/-- Settles O22: CALL leaves memory and the engine's turn as they are, so the next step fetches the RET at the target,
which undoes the push. -/
theorem callThenReturnResumes : Obligations.CallThenReturnResumes := by
  intro s nnn hl hf hw hnil hroom hcall hhi hlo
  have hfirst : step s = .next ((s.push (s.pc + 2)).setPC (zextAddr nnn)) := by
    rw [step_of_idle hl hf hw hnil, hcall, exec_call_room hroom]
  have hret : decode ((s.push (s.pc + 2)).setPC (zextAddr nnn)).fetch = .ret := by
    rw [State.fetch_setPC_zextAddr, State.push_readMem, State.push_readMem, hhi, hlo]
    rfl
  have hsecond : step ((s.push (s.pc + 2)).setPC (zextAddr nnn)) = .next (s.setPC (s.pc + 2)) := by
    rw [step_of_idle (s := (s.push _).setPC _) hl hf hw hnil, hret, exec_ret_of_push]
  exact ⟨_, _, hfirst, toNat_zextAddr nnn, hsecond, rfl, s.setPC_changesOnly _⟩

end Sys2Proof.Machine

namespace Sys2Proof.Machine

/-! ### Frames one after the other (10_state.md R20) -/

theorem Part.Same.trans {s t u : State} {p : Part} (hst : Part.Same s t p) (htu : Part.Same t u p) : Part.Same s u p := by
  cases p <;> exact Eq.trans htu hst

theorem ChangesOnly.trans {s t u : State} {ps qs : List Part} (hst : ChangesOnly s t ps) (htu : ChangesOnly t u qs) :
    ChangesOnly s u (ps ++ qs) := fun p hp =>
  (hst p fun hps => hp (List.mem_append_left qs hps)).trans (htu p fun hqs => hp (List.mem_append_right ps hqs))

theorem State.setV_changesOnly (s : State) (x : Reg) (b : Byte) : ChangesOnly s (s.setV x b) [.v x] := by
  intro p hp
  cases p with
  | v r =>
    have hr : r ≠ x := fun h => hp (List.mem_singleton.2 (congrArg Part.v h))
    exact s.getV_setV_of_ne hr b
  | _ => rfl

theorem State.countDraw_changesOnly (s : State) : ChangesOnly s s.countDraw [.draws] := by
  intro p hp
  cases p with
  | draws => exact absurd List.mem_cons_self hp
  | _ => rfl

theorem State.advance_setV_changesOnly (s : State) (x : Reg) (b : Byte) :
    ChangesOnly s (s.setV x b).advance [.v x, .pc] :=
  (s.setV_changesOnly x b).trans (State.advance_changesOnly _)

theorem State.advance_setVThenFlag_changesOnly (s : State) (x : Reg) (b : Byte) (f : Bool) :
    ChangesOnly s (s.setVThenFlag x b f).advance [.v x, .v VF, .pc] :=
  (s.setV_changesOnly x b).trans ((State.setV_changesOnly _ VF (flagByte f)).trans (State.advance_changesOnly _))

/-! ### Byte results as numbers (41_alu.md R138 to R142) -/

theorem toNat_byte_sub (a b : Byte) : (a - b).toNat = (256 + a.toNat - b.toNat) % 256 := by
  have hb : b.toNat < 256 := b.isLt
  rw [BitVec.toNat_sub]
  omega

theorem toNat_byte_ushiftRight_one (b : Byte) : (b >>> 1).toNat = b.toNat / 2 := by
  rw [BitVec.toNat_ushiftRight, Nat.shiftRight_eq_div_pow, pow_one]

theorem toNat_byte_shiftLeft_one (b : Byte) : (b <<< 1).toNat = 2 * b.toNat % 256 := by
  rw [BitVec.toNat_shiftLeft, Nat.shiftLeft_eq, pow_one, mul_comm]

/-! ### Result and flag (R131, R138 to R144) -/

/-- An instruction that writes a result and then a flag: the two writes as numbers, with the frame. With destination VF
only the flag can be read back. -/
theorem exec_setVThenFlag_outcome {i : Instr} {s : State} {x : Reg} {b : Byte} {f : Bool} {result flag : Nat}
    (h : exec i s = .next (s.setVThenFlag x b f).advance) (hresult : b.toNat = result)
    (hflag : (flagByte f).toNat = flag) :
    ∃ t, exec i s = .next t ∧ (x ≠ VF → (t.getV x).toNat = result) ∧ (t.getV VF).toNat = flag ∧
      t.pc = s.pc + 2#16 ∧ ChangesOnly s t [.v x, .v VF, .pc] := by
  refine ⟨_, h, fun hx => ?result, s.toNat_getV_advance_setVThenFlag x b hflag, rfl,
    s.advance_setVThenFlag_changesOnly x b f⟩
  case result => rw [State.advance_getV, State.getV_setVThenFlag, if_neg hx, if_pos rfl, hresult]

/-- Settles O27: each of the four writes a difference or a shifted byte and then its flag. -/
theorem subtractAndShiftWithFlag : Obligations.SubtractAndShiftWithFlag := fun _ _ _ =>
  ⟨exec_setVThenFlag_outcome (exec_sub ..) (toNat_byte_sub ..) (toNat_flagByte_noBorrowOf ..),
    exec_setVThenFlag_outcome (exec_shr ..) (toNat_byte_ushiftRight_one _) (toNat_flagByte_shiftedOutRight _),
    exec_setVThenFlag_outcome (exec_subn ..) (toNat_byte_sub ..) (toNat_flagByte_noBorrowOf ..),
    exec_setVThenFlag_outcome (exec_shl ..) (toNat_byte_shiftLeft_one _) (toNat_flagByte_shiftedOutLeft _)⟩

/-- Settles O26: the encoding round trip, and the sum with its carry. -/
theorem addRegistersWithCarry : Obligations.AddRegistersWithCarry := fun x y _ =>
  ⟨decode_encode (i := .addReg x y) rfl,
    exec_setVThenFlag_outcome (exec_addReg ..) (BitVec.toNat_add ..) (toNat_flagByte_carryOf ..)⟩

/-! ### Loads, logic and the addition without a flag (R132 to R137) -/

theorem State.getV_advance_setV (s : State) (x : Reg) (b : Byte) : (s.setV x b).advance.getV x = b := by
  rw [State.advance_getV, State.getV_setV_self]

/-- Settles O23: the encoding round trip, and one register write. -/
theorem loadImmediate : Obligations.LoadImmediate := fun x kk s =>
  ⟨decode_encode (i := .ldImm x kk) rfl,
    _, exec_ldImm .., s.getV_advance_setV x kk, rfl, s.advance_setV_changesOnly x kk⟩

/-- Settles O24: the sum of two bytes is taken modulo 256, and no register but Vx is written. -/
theorem addImmediateWrapsWithoutFlag : Obligations.AddImmediateWrapsWithoutFlag := by
  intro x kk s
  refine ⟨decode_encode (i := .addImm x kk) rfl, _, exec_addImm .., ?sum, rfl, s.advance_setV_changesOnly x _⟩
  case sum => rw [State.getV_advance_setV, BitVec.toNat_add]

/-- Settles O25: one register write each, its value read bit by bit. -/
theorem registerCopyAndLogic : Obligations.RegisterCopyAndLogic := by
  intro x y s
  refine ⟨⟨_, exec_ldReg .., s.getV_advance_setV x _, rfl, s.advance_setV_changesOnly x _⟩,
    ⟨_, exec_or .., fun b _ => ?or, rfl, s.advance_setV_changesOnly x _⟩,
    ⟨_, exec_and .., fun b _ => ?and, rfl, s.advance_setV_changesOnly x _⟩,
    ⟨_, exec_xor .., fun b _ => ?xor, rfl, s.advance_setV_changesOnly x _⟩⟩
  case or => rw [State.getV_advance_setV, BitVec.getLsbD_or]
  case and => rw [State.getV_advance_setV, BitVec.getLsbD_and]
  case xor => rw [State.getV_advance_setV, BitVec.getLsbD_xor]

/-! ### The random byte (R143, R254) -/

/-- Counting the draw does not depend on where pc is, so it can be framed last. -/
theorem State.advance_countDraw_setV_changesOnly (s : State) (x : Reg) (b : Byte) :
    ChangesOnly s (s.setV x b).countDraw.advance [.v x, .pc, .draws] :=
  (s.advance_setV_changesOnly x b).trans (State.countDraw_changesOnly _)

/-- Settles O29: Vx holds the drawn byte under the mask, whatever that byte is, and a mask of 0 leaves no bit of it. -/
theorem randomMasksDrawnByte : Obligations.RandomMasksDrawnByte := by
  intro x kk s
  have hx : (s.setV x (s.drawnByte &&& kk)).countDraw.advance.getV x = s.drawnByte &&& kk := by
    rw [State.advance_getV, State.countDraw_getV, State.getV_setV_self]
  refine ⟨_, exec_rnd .., fun b _ => ?bits, fun hkk => ?zero, rfl, rfl, s.advance_countDraw_setV_changesOnly x _⟩
  case bits => rw [hx, BitVec.getLsbD_and, State.drawnByte]
  case zero => rw [hx, hkk, BitVec.and_zero]

end Sys2Proof.Machine

namespace Sys2Proof.Machine

/-! ### What writing I and memory leaves unchanged (R53, R57, R160 to R165) -/

theorem ChangesOnly.advance {s t : State} {ps : List Part} (h : ChangesOnly s t ps) :
    ChangesOnly s t.advance (.pc :: ps) := fun p hp =>
  (h p fun hps => hp (List.mem_cons_of_mem _ hps)).trans
    (t.advance_changesOnly p fun hpc => hp (List.mem_cons.2 (.inl (List.mem_singleton.1 hpc))))

theorem State.setI_changesOnly (s : State) (a : Word) : ChangesOnly s (s.setI a) [.i] := by
  intro p hp
  cases p with
  | i => exact absurd List.mem_cons_self hp
  | _ => rfl

theorem State.advance_setI_changesOnly (s : State) (a : Word) : ChangesOnly s (s.setI a).advance [.i, .pc] :=
  (s.setI_changesOnly a).trans (State.advance_changesOnly _)

theorem State.writeMem_changesOnly {s : State} (hwf : Memory.wf s.mem = true) (a : Addr) (b : Byte) :
    ChangesOnly s (s.writeMem a b) [.mem a] := by
  intro p hp
  cases p with
  | mem c =>
    have hc : c ≠ a := fun h => hp (List.mem_singleton.2 (congrArg Part.mem h))
    exact (State.readMem_writeMem hwf a c b).trans (if_neg hc)
  | _ => rfl

theorem State.storeBlock_changesOnly {s : State} (hwf : Memory.wf s.mem = true) (n : Nat) :
    ChangesOnly s (s.storeBlock n) ((List.range n).map fun k => .mem (s.dataAddr k)) := by
  induction n with
  | zero => exact fun p _ => by cases p <;> rfl
  | succ k ih =>
    rw [List.range_succ, List.map_append]
    exact ih.trans (State.writeMem_changesOnly (State.wf_storeBlock hwf k) _ _)

theorem State.loadBlock_changesOnly (s : State) (n : Nat) :
    ChangesOnly s (s.loadBlock n) ((List.range n).map fun k => .v (blockReg k)) := by
  induction n with
  | zero => exact fun p _ => by cases p <;> rfl
  | succ k ih =>
    rw [List.range_succ, List.map_append]
    exact ih.trans (State.setV_changesOnly _ _ _)

/-! ### The index register (R160 to R162) -/

theorem toNat_and_low_nybble (b : Byte) : (b &&& 0x0F#8).toNat = b.toNat % 16 :=
  (BitVec.toNat_and ..).trans (Nat.and_two_pow_sub_one_eq_mod b.toNat 4)

/-- The font's glyphs start at address 0, five bytes each (D9). -/
theorem toNat_glyphAddr (b : Byte) : (glyphAddr b).toNat = 5 * (b.toNat % 16) := by
  have hstride : (fontStride * zextByte (b &&& 0x0F#8)).toNat = 5 * (b.toNat % 16) % 65536 := by
    rw [BitVec.toNat_mul, toNat_zextByte, toNat_and_low_nybble]
    rfl
  rw [glyphAddr, fontBase, BitVec.zero_add, hstride]
  omega

/-- Settles O30: the three values as numbers; each instruction writes I and advances. -/
theorem indexRegisterWrites : Obligations.IndexRegisterWrites := by
  intro nnn x s
  refine ⟨⟨_, exec_ldI .., toNat_zextAddr nnn, rfl, s.advance_setI_changesOnly _⟩,
    ⟨_, exec_addI .., ?sum, rfl, s.advance_setI_changesOnly _⟩,
    ⟨_, exec_ldF .., toNat_glyphAddr _, rfl, s.advance_setI_changesOnly _⟩⟩
  case sum => rw [State.advance_i, State.setI_i, BitVec.toNat_add, toNat_zextByte]

/-! ### Three decimal digits (R163) -/

theorem toNat_bcdHundreds (b : Byte) : (bcdHundreds b).toNat = b.toNat / 100 :=
  (BitVec.toNat_ofNat ..).trans (Nat.mod_eq_of_lt (by omega))

theorem toNat_bcdTens (b : Byte) : (bcdTens b).toNat = b.toNat / 10 % 10 :=
  (BitVec.toNat_ofNat ..).trans (Nat.mod_eq_of_lt (by omega))

theorem toNat_bcdOnes (b : Byte) : (bcdOnes b).toNat = b.toNat % 10 :=
  (BitVec.toNat_ofNat ..).trans (Nat.mod_eq_of_lt (by omega))

theorem exec_ldB_changesOnly {s t : State} {x : Reg} (hwf : Memory.wf s.mem = true) (h : exec (.ldB x) s = .next t) :
    ChangesOnly s t [.mem (s.dataAddr 0), .mem (s.dataAddr 1), .mem (s.dataAddr 2), .pc] := by
  cases h
  have hwf₁ := State.wf_writeMem hwf (s.dataAddr 0) (bcdHundreds (s.getV x))
  have hwf₂ := State.wf_writeMem hwf₁ (s.dataAddr 1) (bcdTens (s.getV x))
  exact (State.writeMem_changesOnly hwf _ _).trans
    ((State.writeMem_changesOnly hwf₁ _ _).trans
      ((State.writeMem_changesOnly hwf₂ _ _).trans (State.advance_changesOnly _)))

/-- Settles O31: each of the three bytes holds its digit after the store, and no later write of the three covers an
earlier one. -/
theorem bcdStoresThreeDigits : Obligations.BcdStoresThreeDigits := by
  intro x s hwf
  obtain ⟨t, h⟩ := exec_next (.ldB x) s
  have hheld := holdsAfterStore_ldB hwf h
  have hundreds : t.readMem (s.dataAddr 0) = bcdHundreds (s.getV x) := (hheld _).1 0 (by simp) rfl
  have tens : t.readMem (s.dataAddr 1) = bcdTens (s.getV x) := (hheld _).1 1 (by simp) rfl
  have ones : t.readMem (s.dataAddr 2) = bcdOnes (s.getV x) := (hheld _).1 2 (by simp) rfl
  refine ⟨decode_encode (i := .ldB x) rfl, t, h, ?_, ?_, ?_, s.dataAddr_toNat, ?_, exec_ldB_changesOnly hwf h⟩
  · rw [hundreds, toNat_bcdHundreds]
  · rw [tens, toNat_bcdTens]
  · rw [ones, toNat_bcdOnes]
  · rw [exec_store_frame (.inl rfl) h]
    rfl

/-! ### Register blocks (R164, R165, D6) -/

theorem readMem_of_exec_ldMem {s t : State} {x r : Reg} (hwf : Memory.wf s.mem = true)
    (h : exec (.ldMem x) s = .next t) (hr : r.toNat ≤ x.toNat) : t.readMem (s.dataAddr r.toNat) = s.getV r := by
  have hx : x.toNat < 16 := x.isLt
  cases h
  rw [State.advance_readMem, State.readMem_storeBlock hwf (by omega) (by omega), blockReg_toNat_self]

theorem getV_of_exec_ldXMem {s t : State} {x r : Reg} (h : exec (.ldXMem x) s = .next t) (hr : r.toNat ≤ x.toNat) :
    t.getV r = s.readMem (s.dataAddr r.toNat) := by
  cases h
  rw [State.advance_getV, State.getV_loadBlock _ x.isLt, if_pos (by omega)]

/-- Settles O32: a stored block writes each register to its own byte, and only those bytes. -/
theorem storeBlockCopiesRegisters : Obligations.StoreBlockCopiesRegisters := by
  intro x s hwf
  have h := exec_ldMem s x
  refine ⟨_, h, fun r hr => readMem_of_exec_ldMem hwf h hr, s.dataAddr_toNat, ?pc,
    (State.storeBlock_changesOnly hwf _).advance⟩
  case pc => rw [State.advance_pc, State.storeBlock_pc]; rfl

/-- Settles O33: a loaded block reads each byte into its own register, and writes only those registers. -/
theorem loadBlockCopiesMemory : Obligations.LoadBlockCopiesMemory := by
  intro x s
  have h := exec_ldXMem s x
  refine ⟨_, h, fun r hr => getV_of_exec_ldXMem h hr, ?pc, (s.loadBlock_changesOnly _).advance⟩
  case pc => rw [State.advance_pc, State.loadBlock_pc]; rfl

/-- Settles O34: neither the store nor what lies between moves I, so the load reads the addresses just written. -/
theorem loadBlockUndoesStoreBlock : Obligations.LoadBlockUndoesStoreBlock := by
  intro x r s t u w hwf hstore hmem hi hload hr
  have hti : t.i = s.i := by rw [exec_store_frame (.inr rfl) hstore]
  have haddr : u.dataAddr r.toNat = s.dataAddr r.toNat := by rw [State.dataAddr, hi, hti, State.dataAddr]
  calc w.getV r
    _ = u.readMem (s.dataAddr r.toNat) := by rw [getV_of_exec_ldXMem hload hr, haddr]
    _ = t.readMem (s.dataAddr r.toNat) := by rw [State.readMem, hmem, State.readMem]
    _ = s.getV r := readMem_of_exec_ldMem hwf hstore hr

end Sys2Proof.Machine

namespace Sys2Proof.Machine

/-! ### What writing the screen and emitting a command leave unchanged (R20, R29, R35) -/

theorem State.setFB_changesOnly (s : State) (fb : Framebuffer) : ChangesOnly s (s.setFB fb) [.fb] := by
  intro p hp
  cases p with
  | fb => exact absurd List.mem_cons_self hp
  | _ => rfl

theorem State.emit_changesOnly (s : State) (c : DisplayCommand) : ChangesOnly s (s.emit c) [.out] := by
  intro p hp
  cases p with
  | out => exact absurd List.mem_cons_self hp
  | _ => rfl

/-! ### 00E0 (R190) -/

/-- Settles O36: the screen is the clear one, whatever it was, and the command is emitted without a look at it. -/
theorem clearTurnsEveryCellOff : Obligations.ClearTurnsEveryCellOff := fun s =>
  ⟨_, exec_cls s, fun row _ col _ => State.not_isOn_of_allOff rfl row col, rfl, rfl,
    (s.setFB_changesOnly _).trans ((State.emit_changesOnly _ _).trans (State.advance_changesOnly _))⟩

/-! ### DXYN (R191, R192, R194) -/

theorem rowsCover_iff_spriteCovers (s : State) (x y : Reg) (n : Nybble) (row col : Nat) :
    RowsCover s (s.getV x).toNat (s.getV y).toNat n.toNat row col ↔ SpriteCovers s x y n row col := by
  constructor
  · rintro ⟨r, hr, hrow, c, hc, hbit, hcol⟩
    exact ⟨r, c, hr, hc, hbit, hrow, hcol⟩
  · rintro ⟨r, c, hr, hc, hbit, hrow, hcol⟩
    exact ⟨r, hr, hrow, c, hc, hbit, hcol⟩

/-- The covered cells are read off the two coordinates, the index register and memory. -/
theorem SpriteCovers.congr {s t : State} {x y : Reg} (hx : t.getV x = s.getV x) (hy : t.getV y = s.getV y)
    (hi : t.i = s.i) (hmem : ∀ a, t.readMem a = s.readMem a) (n : Nybble) (row col : Nat) :
    SpriteCovers t x y n row col ↔ SpriteCovers s x y n row col := by
  simp only [SpriteCovers, hx, hy, hi, hmem]

theorem flagByte_eq_one_iff (f : Bool) : flagByte f = 0x01#8 ↔ f = true := by
  cases f <;> decide

theorem flagByte_eq_zero_iff (f : Bool) : flagByte f = 0x00#8 ↔ ¬ f = true := by
  cases f <;> decide

/-- A sprite's height is a nybble, so its rows fall on distinct rows of the screen. -/
theorem toNat_nybble_le (n : Nybble) : n.toNat ≤ 32 := by
  have hn : n.toNat < 16 := n.isLt
  omega

/-- The collision: a covered cell was on. -/
theorem drawRows_hit_iff (s : State) (x y : Reg) (n : Nybble) :
    (s.drawRows (s.getV x).toNat (s.getV y).toNat n.toNat).2 = true ↔
      ∃ row < 32, ∃ col < 64, SpriteCovers s x y n row col ∧ s.isOn row col := by
  simp only [← rowsCover_iff_spriteCovers]
  exact (s.drawRows_spec _ _ _ (toNat_nybble_le n)).2

section
variable {s t : State} {x y : Reg} {n : Nybble}

/-- A drawn cell is the exclusive or of what it was and what covers it. -/
theorem isOn_of_exec_drw (h : exec (.drw x y n) s = .next t) {row col : Nat} (hrow : row < 32) (hcol : col < 64) :
    t.isOn row col ↔ ¬ (s.isOn row col ↔ SpriteCovers s x y n row col) := by
  cases h
  rw [← rowsCover_iff_spriteCovers]
  exact (s.drawRows_spec _ _ _ (toNat_nybble_le n)).1 row hrow col hcol

theorem getV_VF_of_exec_drw (h : exec (.drw x y n) s = .next t) :
    t.getV VF = flagByte (s.drawRows (s.getV x).toNat (s.getV y).toNat n.toNat).2 := by
  cases h
  rw [State.advance_getV, State.emit_getV, State.getV_setV_self]

theorem getV_VF_eq_one_iff_of_exec_drw (h : exec (.drw x y n) s = .next t) :
    t.getV VF = 0x01#8 ↔ ∃ row < 32, ∃ col < 64, SpriteCovers s x y n row col ∧ s.isOn row col := by
  rw [getV_VF_of_exec_drw h, flagByte_eq_one_iff, drawRows_hit_iff]

theorem getV_VF_eq_zero_iff_of_exec_drw (h : exec (.drw x y n) s = .next t) :
    t.getV VF = 0x00#8 ↔ ¬ ∃ row < 32, ∃ col < 64, SpriteCovers s x y n row col ∧ s.isOn row col := by
  rw [getV_VF_of_exec_drw h, flagByte_eq_zero_iff, drawRows_hit_iff]

theorem exec_drw_changesOnly (h : exec (.drw x y n) s = .next t) : ChangesOnly s t [.fb, .v VF, .out, .pc] := by
  cases h
  exact (s.setFB_changesOnly _).trans ((State.setV_changesOnly _ _ _).trans
    ((State.emit_changesOnly _ _).trans (State.advance_changesOnly _)))

/-- A draw that writes over neither coordinate leaves the sprite where it was. -/
theorem spriteCovers_of_exec_drw (h : exec (.drw x y n) s = .next t) (hx : x ≠ VF) (hy : y ≠ VF) (row col : Nat) :
    SpriteCovers t x y n row col ↔ SpriteCovers s x y n row col :=
  have hframe := exec_drw_changesOnly h
  SpriteCovers.congr (hframe (.v x) (by simp [hx])) (hframe (.v y) (by simp [hy])) (hframe .i (by simp))
    (fun a => hframe (.mem a) (by simp)) n row col

theorem out_of_exec_drw (h : exec (.drw x y n) s = .next t) : t.out = s.out ++ [.present t.fb] := by
  cases h
  rfl

end

/-- Settles O37: a cell that went off is a covered cell that was on, and the other way round. -/
theorem drawTurnsOverCoveredCells : Obligations.DrawTurnsOverCoveredCells := by
  intro x y n s
  have h := exec_drw s x y n
  refine ⟨_, h, fun row hrow col hcol => isOn_of_exec_drw h hrow hcol, ?collision, ?clear, out_of_exec_drw h, rfl,
    exec_drw_changesOnly h⟩
  case collision =>
    rintro ⟨row, hrow, col, hcol, hwas, hnow⟩
    rw [isOn_of_exec_drw h hrow hcol, not_not] at hnow
    exact (getV_VF_eq_one_iff_of_exec_drw h).2 ⟨row, hrow, col, hcol, hnow.1 hwas, hwas⟩
  case clear =>
    intro hstay
    rw [getV_VF_eq_zero_iff_of_exec_drw h]
    rintro ⟨row, hrow, col, hcol, hcover, hwas⟩
    exact (isOn_of_exec_drw h hrow hcol).1 (hstay row hrow col hcol hwas) (iff_of_true hwas hcover)

/-- Settles O38: both draws cover the same cells, so each cell is turned over twice or not at all; a covered cell is on
before the second draw exactly when it was off before the first. -/
theorem drawTwiceRestoresScreen : Obligations.DrawTwiceRestoresScreen := by
  intro x y n s hx hy
  obtain ⟨t, ht⟩ := exec_next (.drw x y n) s
  obtain ⟨u, hu⟩ := exec_next (.drw x y n) t
  have hsame := spriteCovers_of_exec_drw ht hx hy
  have hcell : ∀ row < 32, ∀ col < 64, (u.isOn row col ↔ s.isOn row col) := by
    intro row hrow col hcol
    rw [isOn_of_exec_drw hu hrow hcol, isOn_of_exec_drw ht hrow hcol, hsame]
    tauto
  refine ⟨t, u, ht, hu, Framebuffer.ext_cell fun row hrow col hcol => Bool.eq_iff_iff.2 (hcell row hrow col hcol), ?_⟩
  rw [getV_VF_eq_one_iff_of_exec_drw hu]
  refine exists_congr fun row => and_congr_right fun hrow => exists_congr fun col => and_congr_right fun hcol => ?_
  rw [hsame, isOn_of_exec_drw ht hrow hcol]
  exact and_congr_right fun hcover => by rw [iff_true_right hcover]

/-- Settles O39: the command carries the new screen; the output only grows. -/
theorem snapshotIsWholeFramebuffer : Obligations.SnapshotIsWholeFramebuffer := by
  refine ⟨fun x y n s => ?snapshot, fun s t h hreset => ?copy⟩
  case snapshot =>
    obtain ⟨t, h⟩ := exec_next (.drw x y n) s
    exact ⟨t, t.fb, h, out_of_exec_drw h, fun row _ col hcol => by rw [t.fb.bitAt_index hcol, State.isOn]⟩
  case copy =>
    obtain hsame | ⟨c, hout⟩ := outputOnlyGrows s t h hreset
    · exact ⟨[], by rw [hsame, List.append_nil]⟩
    · exact ⟨[c], hout⟩

end Sys2Proof.Machine

namespace Sys2Proof.Machine

/-! ### What the timers, the slot, the wait and a turn taken leave unchanged (R20, R27, R30, R31) -/

theorem ChangesOnly.refl (s : State) (ps : List Part) : ChangesOnly s s ps := fun p _ => by cases p <;> rfl

theorem ChangesOnly.mono {s t : State} {ps qs : List Part} (h : ChangesOnly s t ps) (hsub : ps ⊆ qs) :
    ChangesOnly s t qs := fun p hp => h p fun hps => hp (hsub hps)

/-- A list of parts that frames two changes frames both together. -/
theorem ChangesOnly.trans_self {s t u : State} {ps : List Part} (hst : ChangesOnly s t ps) (htu : ChangesOnly t u ps) :
    ChangesOnly s u ps := fun p hp => (hst p hp).trans (htu p hp)

theorem State.setDT_changesOnly (s : State) (b : Byte) : ChangesOnly s (s.setDT b) [.dt] := by
  intro p hp
  cases p with
  | dt => exact absurd List.mem_cons_self hp
  | _ => rfl

theorem State.setST_changesOnly (s : State) (b : Byte) : ChangesOnly s (s.setST b) [.st] := by
  intro p hp
  cases p with
  | st => exact absurd List.mem_cons_self hp
  | _ => rfl

theorem State.clearReleased_changesOnly (s : State) : ChangesOnly s s.clearReleased [.lastReleased] := by
  intro p hp
  cases p with
  | lastReleased => exact absurd List.mem_cons_self hp
  | _ => rfl

theorem State.setWait_changesOnly (s : State) (w : Wait) : ChangesOnly s (s.setWait w) [.wait] := by
  intro p hp
  cases p with
  | wait => exact absurd List.mem_cons_self hp
  | _ => rfl

theorem changesOnly_schedule (s : State) (rest : List Turn) :
    ChangesOnly s { s with schedule := rest } [.schedule] := by
  intro p hp
  cases p with
  | schedule => exact absurd List.mem_cons_self hp
  | _ => rfl

/-! ### The timers (R216 to R218, R220) -/

/-- One down on a number, where subtraction stops at 0 as R220 wants it. -/
theorem toNat_countDown (b : Byte) : (countDown b).toNat = b.toNat - 1 := by
  by_cases hb : b = 0
  · rw [countDown, if_pos hb, hb]
    rfl
  · rw [countDown, if_neg hb]
    bv_omega

theorem State.tick_changesOnly (s : State) : ChangesOnly s s.tick [.dt, .st] := by
  cases hf : s.fault with
  | none =>
    rw [State.tick_of_no_fault hf]
    exact (s.setDT_changesOnly _).trans (State.setST_changesOnly _ _)
  | some record =>
    rw [State.tick_of_fault hf]
    exact .refl s _

/-- Settles O11: each timer's number goes down by a subtraction that stops at 0. -/
theorem tickCountsBothTimersDown : Obligations.TickCountsBothTimersDown := by
  intro s hf
  have hdt : s.tick.dt.toNat = s.dt.toNat - 1 := by
    rw [State.tick_of_no_fault hf, State.setST_dt, State.setDT_dt, toNat_countDown]
  have hst : s.tick.st.toNat = s.st.toNat - 1 := by
    rw [State.tick_of_no_fault hf, State.setST_st, toNat_countDown]
  exact ⟨by omega, by omega, by omega, by omega, s.tick_changesOnly⟩

/-- Settles O45: one write each, then the advance. -/
theorem timerMoves : Obligations.TimerMoves := fun x s =>
  ⟨⟨_, exec_ldXDT .., s.getV_advance_setV x _, rfl, s.advance_setV_changesOnly x _⟩,
    ⟨_, exec_ldDT .., rfl, rfl, (s.setDT_changesOnly _).trans (State.advance_changesOnly _)⟩,
    ⟨_, exec_ldST .., rfl, rfl, (s.setST_changesOnly _).trans (State.advance_changesOnly _)⟩⟩

/-! ### The key tests (R210, R211, D17) -/

/-- A byte tests true when it is the number of a key that is down; above 0xF it is no key's number. -/
theorem State.keyNamedDown_iff (s : State) (b : Byte) :
    s.keyNamedDown b = true ↔ ∃ k : Key, k.toNat = b.toNat ∧ s.keys.isDown k = true := by
  rw [State.keyNamedDown, Bool.and_eq_true, decide_eq_true_iff]
  constructor
  case mp =>
    rintro ⟨hb, hdown⟩
    exact ⟨b.setWidth 4, by rw [BitVec.toNat_setWidth, Nat.mod_eq_of_lt (by omega)], hdown⟩
  case mpr =>
    rintro ⟨k, hk, hdown⟩
    have hkey : b.setWidth 4 = k := by
      rw [← BitVec.toNat_inj, BitVec.toNat_setWidth, ← hk, Nat.mod_eq_of_lt k.isLt]
    exact ⟨by omega, hkey.symm ▸ hdown⟩

theorem State.keyNamedDown_eq_false_iff (s : State) (b : Byte) :
    s.keyNamedDown b = false ↔ ∀ k : Key, k.toNat = b.toNat → s.keys.isDown k = false := by
  rw [← Bool.not_eq_true, s.keyNamedDown_iff]
  push Not
  simp only [ne_eq, Bool.not_eq_true]

/-- Settles O40: EX9E skips on the test, EXA1 on its negation, so the two clauses of EXA1 come in the other order. -/
theorem keyTestsSkip : Obligations.KeyTestsSkip := by
  intro x s
  have hdown := (s.keyNamedDown_iff (s.getV x)).2
  have hup := (s.keyNamedDown_eq_false_iff (s.getV x)).2
  obtain ⟨t, h, htaken, hpassed, hframe⟩ := exec_skipIf_outcome (exec_sknp s x)
    (fun h => congrArg not (hup h)) (fun h => congrArg not (hdown h))
  exact ⟨exec_skipIf_outcome (exec_skp ..) hdown hup, t, h, hpassed, htaken, hframe⟩

/-! ### The key wait, one step (R213, R214) -/

theorem State.report_of_waiting {s : State} {x : Reg} (hf : s.fault = none) (hw : s.wait = .waiting x) :
    s.report = .blocked := by
  simp only [State.report, hf, hw]

theorem State.report_of_idle {s : State} (hf : s.fault = none) (hw : s.wait = .idle) : s.report = .advance := by
  simp only [State.report, hf, hw]

/-- Settles O41: the slot is cleared and the wait recorded, whatever the slot held. -/
theorem keyWaitFirstStepBlocks : Obligations.KeyWaitFirstStepBlocks := fun _ s hf _ =>
  ⟨_, exec_ldK .., rfl, rfl, State.report_of_waiting hf rfl, rfl,
    s.clearReleased_changesOnly.trans (State.setWait_changesOnly _ _)⟩

/-- The engine's turn of a pending key wait is a poll (R214). -/
theorem step_of_engineMoves_waiting {s : State} {x : Reg} {rest : List Turn} (hf : s.fault = none)
    (hw : s.wait = .waiting x) (hmoves : EngineMoves s rest) :
    step s = .next (State.pollKey { s with schedule := rest } x) := by
  obtain ⟨hl, hturn | ⟨hnil, rfl⟩⟩ := hmoves
  · rw [step_of_engine hturn]
    exact engineStep_waiting hl hf hw
  · rw [step_of_nil hnil, engineStep_waiting hl hf hw, ← hnil]

theorem toNat_zextKey (k : Key) : (zextKey k).toNat = k.toNat :=
  BitVec.toNat_setWidth_of_le (by decide)

/-- What a poll that finds a key moves (R214). -/
theorem State.endWait_changesOnly (s : State) (x : Reg) (b : Byte) :
    ChangesOnly s ((s.clearReleased.setV x b).setWait .idle).advance [.pc, .lastReleased, .v x, .wait] :=
  (s.clearReleased_changesOnly.trans
    ((State.setV_changesOnly _ x b).trans (State.setWait_changesOnly _ _))).advance

/-- Settles O42: the poll of an empty slot and of a filled one, after the turn is taken off the schedule. -/
theorem keyWaitPollStep : Obligations.KeyWaitPollStep := by
  intro x s rest hf hw hmoves
  have hstep := step_of_engineMoves_waiting hf hw hmoves
  refine ⟨fun hslot => ?empty, fun k hslot => ?key⟩
  case empty =>
    rw [State.pollKey_none (s := { s with schedule := rest }) hslot] at hstep
    exact ⟨_, hstep, State.report_of_waiting hf hw, rfl, changesOnly_schedule s rest⟩
  case key =>
    rw [State.pollKey_some (s := { s with schedule := rest }) hslot] at hstep
    refine ⟨_, hstep, ?value, rfl, rfl, rfl, State.report_of_idle hf rfl, rfl, ?frame⟩
    case value => rw [State.advance_getV, State.setWait_getV, State.getV_setV_self, toNat_zextKey]
    case frame =>
      refine ((changesOnly_schedule s rest).trans (State.endWait_changesOnly _ x _)).mono ?_
      simp

/-! ### What a host event other than a Reset leaves unchanged (R33, R220) -/

@[simp] theorem State.applyEvent_schedule (s : State) (e : HostEvent) : (s.applyEvent e).schedule = s.schedule := by
  cases e with
  | tick => exact s.tick_changesOnly .schedule (by decide)
  | _ => rfl

/-- What a quiet turn of a key wait can move. -/
abbrev quietParts : List Part := [.dt, .st, .pressed, .schedule]

/-- What a turn of the host without a Reset can move. -/
abbrev hostParts : List Part := [.dt, .st, .pressed, .lastReleased, .schedule]

theorem State.applyEvent_changesOnly_quiet (s : State) {e : HostEvent} (he : (Turn.host e).quiet = true) :
    ChangesOnly s (s.applyEvent e) quietParts := by
  cases e with
  | tick => exact s.tick_changesOnly.mono (by decide)
  | press k => exact (s.press_changesOnly k).mono (by decide)
  | release | reset => nomatch he

theorem State.applyEvent_changesOnly_host (s : State) {e : HostEvent} (he : ∀ rom, e ≠ .reset rom) :
    ChangesOnly s (s.applyEvent e) hostParts := by
  cases e with
  | release k => exact (s.release_changesOnly k).mono (by decide)
  | reset rom => exact absurd rfl (he rom)
  | tick | press => exact (s.applyEvent_changesOnly_quiet rfl).mono (by decide)

/-- A turn of the host moves what its event moves, and the schedule. -/
theorem step_host_changesOnly {s : State} {e : HostEvent} {rest : List Turn} {ps : List Part}
    (h : s.schedule = .host e :: rest) (hps : .schedule ∈ ps) (he : ∀ s : State, ChangesOnly s (s.applyEvent e) ps) :
    ∃ t, step s = .next t ∧ t.schedule = rest ∧ ChangesOnly s t ps :=
  ⟨_, step_of_host h, State.applyEvent_schedule ..,
    ((changesOnly_schedule s rest).mono (List.cons_subset.2 ⟨hps, List.nil_subset _⟩)).trans_self (he _)⟩

theorem step_release {s : State} {k : Key} {rest : List Turn} (h : s.schedule = .host (.release k) :: rest) :
    ∃ t, step s = .next t ∧ t.schedule = rest ∧ t.keys.lastReleased = some k ∧ ChangesOnly s t hostParts :=
  ⟨_, step_of_host h, rfl, rfl, ((changesOnly_schedule s rest).trans (State.release_changesOnly _ k)).mono (by decide)⟩

/-! ### Runs over listed turns (R10) -/

theorem runSteps_succ {s t : State} (h : step s = .next t) (n : Nat) : runSteps (n + 1) s = runSteps n t := by
  rw [runSteps, h]

theorem runSteps_add {m : Nat} {s t : State} (h : runSteps m s = .next t) (n : Nat) :
    runSteps (m + n) s = runSteps n t := by
  induction m generalizing s with
  | zero =>
    cases h
    rw [Nat.zero_add]
  | succ m ih =>
    rw [Nat.succ_add, runSteps]
    rw [runSteps] at h
    cases hstep : step s with
    | next u =>
      rw [hstep] at h
      exact ih h
    | fault | refused =>
      rw [hstep] at h
      nomatch h

/-- A run over listed turns, each of which answers a next state and keeps `I`, takes them all and keeps `I`. -/
theorem exists_runSteps_of_invariant {I : State → Prop} {turns rest : List Turn}
    (hstep : ∀ u ∈ turns, ∀ s more, I s → s.schedule = u :: more → ∃ t, step s = .next t ∧ t.schedule = more ∧ I t)
    {s : State} (hs : I s) (hsched : s.schedule = turns ++ rest) :
    ∃ t, runSteps turns.length s = .next t ∧ t.schedule = rest ∧ I t := by
  induction turns generalizing s with
  | nil => exact ⟨s, rfl, hsched, hs⟩
  | cons u turns ih =>
    obtain ⟨s', hs', hsched', hI⟩ := hstep u List.mem_cons_self s _ hs hsched
    obtain ⟨t, hrun, ht⟩ := ih (fun v hv => hstep v (List.mem_cons_of_mem u hv)) hI hsched'
    exact ⟨t, (runSteps_succ hs' _).trans hrun, ht⟩

/-- A run over events of the host moves what each of them moves, and the schedule. -/
theorem exists_runSteps_of_events {events : List HostEvent} {s : State} {rest : List Turn} {ps : List Part}
    (hsched : s.schedule = events.map Turn.host ++ rest) (hps : .schedule ∈ ps)
    (he : ∀ e ∈ events, ∀ s : State, ChangesOnly s (s.applyEvent e) ps) :
    ∃ t, runSteps events.length s = .next t ∧ t.schedule = rest ∧ ChangesOnly s t ps := by
  rw [← List.length_map (f := Turn.host)]
  refine exists_runSteps_of_invariant (I := (ChangesOnly s · ps)) (fun u hu t more hst ht => ?_) (.refl s ps) hsched
  obtain ⟨e, hmem, rfl⟩ := List.mem_map.1 hu
  obtain ⟨t', hstep, hsched', htt'⟩ := step_host_changesOnly ht hps (he e hmem)
  exact ⟨t', hstep, hsched', hst.trans_self htt'⟩

/-! ### The key wait over a run (R214, R215) -/

/-- The engine runs and waits for a key for Vx. -/
structure KeyWaitPending (s : State) (x : Reg) : Prop where
  launched : s.launched = true
  noFault : s.fault = none
  waiting : s.wait = .waiting x

/-- No event but a Reset ends a key wait. -/
theorem KeyWaitPending.of_changesOnly {s t : State} {x : Reg} (hs : KeyWaitPending s x)
    (h : ChangesOnly s t hostParts) : KeyWaitPending t x where
  launched := Eq.trans (h .launched (by decide)) hs.launched
  noFault := Eq.trans (h .fault (by decide)) hs.noFault
  waiting := Eq.trans (h .wait (by decide)) hs.waiting

/-- A quiet turn of a key wait with an empty slot: a poll that finds nothing, a tick or a press. -/
theorem KeyWaitPending.step_quiet {s : State} {x : Reg} (hs : KeyWaitPending s x)
    (hslot : s.keys.lastReleased = none) {u : Turn} (hu : u.quiet = true) {rest : List Turn}
    (hsched : s.schedule = u :: rest) : ∃ t, step s = .next t ∧ t.schedule = rest ∧ ChangesOnly s t quietParts := by
  cases u with
  | engine =>
    obtain ⟨t, hstep, _, ht, hframe⟩ :=
      (keyWaitPollStep x s rest hs.noFault hs.waiting ⟨hs.launched, .inl hsched⟩).1 hslot
    exact ⟨t, hstep, ht, hframe.mono (by decide)⟩
  | host e => exact step_host_changesOnly hsched (by decide) fun s => s.applyEvent_changesOnly_quiet hu

/-- Settles O43: the states that differ from the first in what quiet turns move all wait with an empty slot, and a quiet
turn leads from each of them to another. -/
theorem keyWaitBlocksWithoutRelease : Obligations.KeyWaitBlocksWithoutRelease := by
  intro x s turns rest hl hf hw hslot hsched hquiet
  have hwait : ∀ {t}, ChangesOnly s t quietParts → KeyWaitPending t x ∧ t.keys.lastReleased = none := fun h =>
    ⟨.of_changesOnly ⟨hl, hf, hw⟩ (h.mono (by decide)), Eq.trans (h .lastReleased (by decide)) hslot⟩
  have hstep : ∀ u ∈ turns, ∀ t more, ChangesOnly s t quietParts → t.schedule = u :: more →
      ∃ t', step t = .next t' ∧ t'.schedule = more ∧ ChangesOnly s t' quietParts := by
    intro u hu t more hst hmore
    obtain ⟨hpending, hempty⟩ := hwait hst
    obtain ⟨t', hstep, hmore', htt'⟩ := hpending.step_quiet hempty (hquiet u hu) hmore
    exact ⟨t', hstep, hmore', hst.trans_self htt'⟩
  obtain ⟨t, hrun, ht, hframe⟩ := exists_runSteps_of_invariant hstep (.refl s _) hsched
  obtain ⟨hpending, hempty⟩ := hwait hframe
  exact ⟨t, hrun, hpending.waiting, hempty, State.report_of_waiting hpending.noFault hpending.waiting, ht, hframe⟩

/-- After a release, and then host events without another release or a Reset, the slot holds the key. -/
theorem exists_runSteps_of_last_release {k : Key} {s : State} {before after : List HostEvent} {rest : List Turn}
    (hsched : s.schedule = (before ++ .release k :: after).map Turn.host ++ rest)
    (hreset : ∀ rom, HostEvent.reset rom ∉ before ++ after) (hlast : ∀ j, HostEvent.release j ∉ after) :
    ∃ t, runSteps (before.length + after.length + 1) s = .next t ∧ t.schedule = rest ∧
      t.keys.lastReleased = some k ∧ ChangesOnly s t hostParts := by
  have hbefore : ∀ e ∈ before, ∀ s : State, ChangesOnly s (s.applyEvent e) hostParts := fun e he s =>
    s.applyEvent_changesOnly_host fun rom h => hreset rom (List.mem_append_left after (h ▸ he))
  have hafter : ∀ e ∈ after, ∀ s : State, ChangesOnly s (s.applyEvent e) quietParts := by
    intro e he s
    refine s.applyEvent_changesOnly_quiet ?_
    cases e with
    | release j => exact absurd he (hlast j)
    | reset rom => exact absurd (List.mem_append_right before he) (hreset rom)
    | _ => rfl
  rw [List.map_append, List.append_assoc] at hsched
  obtain ⟨s₁, hrun₁, hsched₁, hframe₁⟩ := exists_runSteps_of_events hsched (by decide) hbefore
  obtain ⟨s₂, hstep₂, hsched₂, hslot₂, hframe₂⟩ := step_release hsched₁
  obtain ⟨t, hrun₃, ht, hframe₃⟩ := exists_runSteps_of_events hsched₂ (by decide) hafter
  have hrun : runSteps (before.length + (after.length + 1)) s = .next t := by
    rw [runSteps_add hrun₁, runSteps_succ hstep₂, hrun₃]
  exact ⟨t, hrun, ht, Eq.trans (hframe₃ .lastReleased (by decide)) hslot₂,
    (hframe₁.trans_self hframe₂).trans_self (hframe₃.mono (by decide))⟩

/-- Settles O44: the last release fills the slot, no later event of the host empties it, and the poll takes it. -/
theorem keyWaitDeliversLastRelease : Obligations.KeyWaitDeliversLastRelease := by
  intro x k s before after rest hl hf hw hsched hreset hlast
  obtain ⟨s', hrun, hsched', hslot, hframe⟩ := exists_runSteps_of_last_release hsched hreset hlast
  have hpending : KeyWaitPending s' x := .of_changesOnly ⟨hl, hf, hw⟩ hframe
  obtain ⟨t, hstep, hvalue, hempty, hidle, hpc, hreport, ht, hframe'⟩ :=
    (keyWaitPollStep x s' rest hpending.noFault hpending.waiting ⟨hpending.launched, .inl hsched'⟩).2 k hslot
  have hrun' : runSteps (before.length + after.length + 2) s = .next t := by
    rw [runSteps_add hrun 1, runSteps_succ hstep, runSteps]
  have hpc' : s'.pc = s.pc := hframe .pc (by decide)
  refine ⟨t, hrun', hvalue, hidle, hempty, by rw [hpc, hpc'], hreport, ht, ?frame⟩
  case frame => exact (hframe.trans hframe').mono (by simp)

end Sys2Proof.Machine

namespace Sys2Proof.Machine

/-! ### Taking a fault (R34, R241 to R243) -/

theorem State.raiseFault_changesOnly (s : State) (cause : FaultCause) (i : Instr) :
    ChangesOnly s (s.raiseFault cause i) [.fault] := by
  intro p hp
  cases p with
  | fault => exact absurd List.mem_cons_self hp
  | _ => rfl

theorem State.report_of_fault {s : State} {record : FaultRecord} (hf : s.fault = some record) : s.report = .fault := by
  rw [State.report, hf]

theorem State.report_raiseFault (s : State) (cause : FaultCause) (i : Instr) :
    (s.raiseFault cause i).report = .fault :=
  State.report_of_fault (s.raiseFault_fault cause i)

/-- Settles O17: RET on the empty stack is `raiseFault`, and its own word is 0x00EE. -/
theorem returnOnEmptyStackFaults : Obligations.ReturnOnEmptyStackFaults := fun s hempty =>
  ⟨_, exec_ret_empty hempty, rfl, rfl, s.report_raiseFault _ _, s.raiseFault_changesOnly _ _⟩

/-- Settles O20: CALL on the full stack is `raiseFault`, and its own word is 0x2000 + nnn. -/
theorem callOnFullStackFaults : Obligations.CallOnFullStackFaults := by
  intro nnn s hfull
  have hcall := exec_call_full (s := s) (by omega) nnn
  have hword : (encode (.call nnn)).toNat = 0x2000 + nnn.toNat := toNat_formatA 0x2#4 nnn
  exact ⟨_, _, hcall, rfl, rfl, rfl, rfl, hword, s.report_raiseFault _ _, s.raiseFault_changesOnly _ _⟩

/-- Settles O53: RET and CALL by their cases, in which a moved record leaves the fault only; no other instruction's
update touches the record. -/
theorem onlyReturnAndCallFault : Obligations.OnlyReturnAndCallFault := by
  intro i s t h hmoved
  cases i with
  | ret =>
    obtain ⟨hempty, rfl⟩ | ⟨_, _, _, rfl⟩ := exec_ret_cases h
    · exact ⟨.inl ⟨rfl, hempty, rfl⟩, s.raiseFault_changesOnly _ _⟩
    · exact absurd rfl hmoved
  | call nnn =>
    obtain ⟨_, rfl⟩ | ⟨hfull, rfl⟩ := exec_call_cases h
    · exact absurd rfl hmoved
    · exact ⟨.inr ⟨nnn, rfl, not_lt.1 hfull, rfl⟩, s.raiseFault_changesOnly _ _⟩
  | _ => cases h; simp at hmoved

/-! ### Where a step stops (R240, R243, R272, D20) -/

/-- No engine step in the faulted state (R243). -/
theorem engineStep_of_fault {s : State} {record : FaultRecord} (hl : s.launched = true)
    (hf : s.fault = some record) : engineStep s = .fault (.faulted record) := by
  simp only [engineStep, hl, hf]

/-- Every other engine step goes on: a poll always does, and so does every instruction. -/
theorem exists_engineStep_next {s : State} (hl : s.launched = true) (hf : s.fault = none) :
    ∃ t, engineStep s = .next t := by
  cases hw : s.wait with
  | waiting x => exact ⟨_, engineStep_waiting hl hf hw⟩
  | idle =>
    rw [engineStep_idle hl hf hw]
    exact exec_next _ s

theorem engineStep_eq_fault_iff {s : State} {f : Fault} :
    engineStep s = .fault f ↔ ∃ record, s.launched = true ∧ s.fault = some record ∧ f = .faulted record := by
  cases hl : s.launched with
  | false => simp [engineStep_of_not_launched hl]
  | true =>
    cases hf : s.fault with
    | some record => simp [engineStep_of_fault hl hf, eq_comm]
    | none =>
      obtain ⟨t, ht⟩ := exists_engineStep_next hl hf
      simp [ht]

theorem engineStep_eq_refused_iff {s : State} {r : Refusal} :
    engineStep s = .refused r ↔ r = .notLaunched ∧ s.launched = false := by
  cases hl : s.launched with
  | false => simp [engineStep_of_not_launched hl, eq_comm]
  | true =>
    cases hf : s.fault with
    | some record => simp [engineStep_of_fault hl hf]
    | none =>
      obtain ⟨t, ht⟩ := exists_engineStep_next hl hf
      simp [ht]

theorem step_of_engineTurn {s : State} {rest : List Turn} (h : EngineTurn s rest) :
    step s = engineStep { s with schedule := rest } := by
  obtain hturn | ⟨hnil, rfl⟩ := h
  · exact step_of_engine hturn
  · rw [step_of_nil hnil, ← hnil]

theorem engineTurn_or_host (s : State) :
    (∃ rest, EngineTurn s rest) ∨ ∃ e rest, s.schedule = .host e :: rest := by
  cases hs : s.schedule with
  | nil => exact .inl ⟨[], .inr ⟨hs, rfl⟩⟩
  | cons u rest =>
    cases u with
    | engine => exact .inl ⟨rest, .inl hs⟩
    | host e => exact .inr ⟨e, rest, rfl⟩

/-- A stop of a step is a stop of the engine on its turn: a turn of the host always goes on. -/
theorem step_eq_stop_iff {s : State} {stop : Host.Outcome State Fault Refusal} (hstop : ∀ t, stop ≠ .next t) :
    step s = stop ↔ ∃ rest, EngineTurn s rest ∧ engineStep { s with schedule := rest } = stop := by
  constructor
  case mp =>
    rintro rfl
    obtain ⟨rest, hturn⟩ | ⟨e, rest, hhost⟩ := engineTurn_or_host s
    · exact ⟨rest, hturn, (step_of_engineTurn hturn).symm⟩
    · exact absurd (step_of_host hhost) (hstop _)
  case mpr =>
    rintro ⟨rest, hturn, h⟩
    rw [step_of_engineTurn hturn, h]

/-- Settles O9: both stops are the engine's on its turn, and the turn taken moves neither the record nor the launch
flag. -/
theorem stepStopsOnlyWhenFaultedOrNotLaunched : Obligations.StepStopsOnlyWhenFaultedOrNotLaunched := by
  refine fun s => ⟨fun f => ?fault, fun r => ?refused⟩
  case fault =>
    rw [step_eq_stop_iff (stop := .fault f) nofun]
    simp only [engineStep_eq_fault_iff]
    constructor
    · rintro ⟨rest, hturn, record, hl, hf, rfl⟩
      exact ⟨record, rest, hf, rfl, hl, hturn⟩
    · rintro ⟨record, rest, hf, rfl, hl, hturn⟩
      exact ⟨rest, hturn, record, hl, hf, rfl⟩
  case refused =>
    rw [step_eq_stop_iff (stop := .refused r) nofun]
    simp only [engineStep_eq_refused_iff]
    constructor
    · rintro ⟨rest, hturn, rfl, hl⟩
      exact ⟨rfl, hl, rest, hturn⟩
    · rintro ⟨rfl, hl, rest, hturn⟩
      exact ⟨rest, hturn, rfl, hl⟩

/-! ### The way out of the faulted state (R243, R249, D20) -/

/-- Settles O10: the event is applied with the turn taken; a Reset clears the record, a Tick finds it set and does
nothing, and a key event moves the Input State only. -/
theorem onlyResetLeavesFaultedState : Obligations.OnlyResetLeavesFaultedState := by
  intro s record e rest hf hsched
  have hturn := changesOnly_schedule s rest
  refine ⟨_, step_of_host hsched, ?_⟩
  cases e with
  | reset rom => exact .inl ⟨rom, rfl, rfl⟩
  | tick =>
    rw [State.applyEvent_tick, State.tick_of_fault (s := { s with schedule := rest }) hf]
    exact .inr (.inl ⟨rfl, hturn⟩)
  | press k =>
    exact .inr (.inr ⟨.inl ⟨k, rfl⟩, hf, (hturn.trans (State.press_changesOnly _ k)).mono (by decide)⟩)
  | release k =>
    exact .inr (.inr ⟨.inr ⟨k, rfl⟩, hf, (hturn.trans (State.release_changesOnly _ k)).mono (by decide)⟩)

end Sys2Proof.Machine

namespace Sys2Proof.Machine

/-! ### The loaded ROM and the values after Reset (R39, R62, R270, R271) -/

/-- Every byte of memory after a load: the ROM's byte from 0x200 on, else 0x00. What a ROM has past the loader's capacity
would lie past the last address (R62, D30). -/
theorem Memory.read_romMemory (rom : List Byte) (a : Addr) :
    Memory.read (romMemory rom) a = if 0x200 ≤ a.toNat then rom.getD (a.toNat - 0x200) 0x00#8 else 0x00#8 := by
  have ha : a.toNat < 4096 := a.isLt
  have hlen : (rom.take romCapacity).length = min 3584 rom.length := by rw [List.length_take, romCapacity]
  rw [romMemory, Config.progBase, Memory.read_load _ rfl _ (by omega)]
  by_cases hbase : 0x200 ≤ a.toNat
  · by_cases hin : a.toNat - 0x200 < rom.length
    · rw [dif_pos (by omega), if_pos hbase, List.getElem_take, List.getD_eq_getElem _ _ hin]
    · rw [dif_neg (by omega), if_pos hbase, List.getD_eq_default _ _ (by omega)]
      rfl
  · rw [dif_neg (by omega), if_neg hbase]
    rfl

/-- The ROM's byte k, at its address. -/
theorem State.readMem_hostReset_rom (s : State) {rom : List Byte} {k : Nat} (hk : k < rom.length) (hcap : k < 3584) :
    (s.hostReset rom).readMem (BitVec.ofNat 12 (0x200 + k)) = rom[k] := by
  have hto : (BitVec.ofNat 12 (0x200 + k)).toNat = 0x200 + k := Nat.mod_eq_of_lt (by omega)
  rw [State.readMem, State.hostReset_mem, Memory.read_romMemory, hto, if_pos (by omega), Nat.add_sub_cancel_left,
    List.getD_eq_getElem _ _ hk]

/-- Outside the ROM's bytes memory is zero. -/
theorem State.readMem_hostReset_outside (s : State) {rom : List Byte} {a : Addr}
    (ha : a.toNat < 0x200 ∨ 0x200 + rom.length ≤ a.toNat) : (s.hostReset rom).readMem a = 0x00#8 := by
  rw [State.readMem, State.hostReset_mem, Memory.read_romMemory, ite_eq_right_iff]
  intro hbase
  exact List.getD_eq_default _ _ (by omega)

/-- Settles O13: memory by the load; every other component is the one of `State.reset`, but the pressed set, which stays,
and the launch flag, which is set. -/
theorem resetLoadsRomAndClearsState : Obligations.ResetLoadsRomAndClearsState := by
  intro s rom
  have hoff : ∀ row < 32, ∀ col < 64, ¬ (s.hostReset rom).isOn row col := fun row _ col _ =>
    State.not_isOn_of_allOff rfl row col
  exact ⟨fun _ => s.readMem_hostReset_rom, fun _ => s.readMem_hostReset_outside, rfl, State.getV_reset, rfl, rfl, rfl,
    rfl, hoff, rfl, rfl, rfl, rfl, rfl, rfl⟩

/-! ### Turns without a Reset (R10, R275) -/

/-- No Reset is among the turns to come. -/
def NoResetListed (s : State) : Prop := ∀ rom, Turn.host (.reset rom) ∉ s.schedule

theorem NoResetListed.schedule_ne {s : State} (hs : NoResetListed s) (rom : List Byte) (rest : List Turn) :
    s.schedule ≠ .host (.reset rom) :: rest := fun h => hs rom (h ▸ List.mem_cons_self)

theorem NoResetListed.of_schedule_eq_tail {s t : State} (hs : NoResetListed s) (h : t.schedule = s.schedule.tail) :
    NoResetListed t := fun rom hmem => hs rom (List.mem_of_mem_tail (h ▸ hmem))

theorem EngineTurn.schedule_tail {s : State} {rest : List Turn} (h : EngineTurn s rest) : s.schedule.tail = rest := by
  obtain hs | ⟨hs, rfl⟩ := h <;> rw [hs] <;> rfl

/-- A turn of the host that is no Reset moves the timers, the keys and the schedule only. -/
theorem step_host_of_ne_reset {s : State} {e : HostEvent} {rest : List Turn} (h : s.schedule = .host e :: rest)
    (he : ∀ rom, e ≠ .reset rom) : ∃ t, step s = .next t ∧ t.schedule = rest ∧ ChangesOnly s t hostParts :=
  step_host_changesOnly h (by decide) fun s => s.applyEvent_changesOnly_host he

/-! ### Runs that keep an invariant (R10) -/

/-- What every step that answers a next state keeps, a run that answers one keeps. -/
theorem runSteps_keeps {I : State → Prop} (hstep : ∀ s t, I s → step s = .next t → I t) {n : Nat} {s t : State}
    (hs : I s) (h : runSteps n s = .next t) : I t := by
  induction n generalizing s with
  | zero =>
    cases h
    exact hs
  | succ n ih =>
    rw [runSteps] at h
    split at h
    next u hu => exact ih (hstep s u hs hu) h
    all_goals nomatch h

/-- States without a fault, each of which steps to another of them, run safely for ever. -/
theorem safeRun_of_invariant {I : State → Prop} (hfault : ∀ s, I s → s.fault = none)
    (hstep : ∀ s, I s → ∃ t, step s = .next t ∧ I t) (n : Nat) {s : State} (hs : I s) :
    SafeRun n s ∧ ∃ t, runSteps n s = .next t ∧ I t := by
  induction n generalizing s with
  | zero => exact ⟨hfault s hs, s, rfl, hs⟩
  | succ n ih =>
    obtain ⟨u, hu, hI⟩ := hstep s hs
    obtain ⟨hsafe, t, hrun, ht⟩ := ih hI
    exact ⟨⟨hfault s hs, u, hu, hsafe⟩, t, (runSteps_succ hu n).trans hrun, ht⟩

/-- A state that steps to itself stays. -/
theorem runSteps_of_step_self {s : State} (h : step s = .next s) (n : Nat) : runSteps n s = .next s := by
  induction n with
  | zero => rfl
  | succ n ih => rw [runSteps_succ h, ih]

/-! ### The parked engine (R103, R275, D32) -/

/-- A fetch reads pc and memory only (R71). -/
theorem fetch_eq_of_changesOnly {s t : State} {ps : List Part} (h : ChangesOnly s t ps) (hpc : .pc ∉ ps)
    (hmem : ∀ a, .mem a ∉ ps) : t.fetch = s.fetch := by
  have hpc' : t.pc = s.pc := h .pc hpc
  have hmem' : ∀ a, t.readMem a = s.readMem a := fun a => h (.mem a) (hmem a)
  rw [State.fetch, State.fetch, hpc', hmem', hmem']

section
variable {s t : State}

/-- Being parked reads nothing of the timers, the Input State and the turns. -/
theorem Parked.of_changesOnly (hs : Parked s) (h : ChangesOnly s t hostParts) : Parked t := by
  obtain ⟨hl, hf, hw, nnn, hjump, hself⟩ := hs
  have hpc : t.pc = s.pc := h .pc (by decide)
  have hfetch : t.fetch = s.fetch := fetch_eq_of_changesOnly h (by decide) (by simp)
  exact ⟨Eq.trans (h .launched (by decide)) hl, Eq.trans (h .fault (by decide)) hf, Eq.trans (h .wait (by decide)) hw,
    nnn, by rw [hfetch, hjump], by rw [hpc, hself]⟩

/-- The parked engine's step jumps to where pc already is (R103, R275). -/
theorem Parked.step_engine (hs : Parked s) {rest : List Turn} (hturn : EngineTurn s rest) :
    step s = .next { s with schedule := rest } := by
  obtain ⟨hl, hf, hw, nnn, hjump, hself⟩ := hs
  have htarget : zextAddr nnn = s.pc := BitVec.eq_of_toNat_eq ((toNat_zextAddr nnn).trans hself)
  rw [step_of_engineMoves hf hw ⟨hl, hturn⟩, hjump, exec_jp, htarget]
  rfl

/-- A turn of a parked machine that is no Reset: the engine's jump to itself, or an event of the host. -/
theorem Parked.step_next (hs : Parked s) (hreset : ∀ rom rest, s.schedule ≠ .host (.reset rom) :: rest) :
    ∃ t, step s = .next t ∧ t.schedule = s.schedule.tail ∧ ChangesOnly s t hostParts := by
  obtain ⟨rest, hturn⟩ | ⟨e, rest, hhost⟩ := engineTurn_or_host s
  · exact ⟨_, hs.step_engine hturn, hturn.schedule_tail.symm, (changesOnly_schedule s rest).mono (by decide)⟩
  · rw [hhost]
    exact step_host_of_ne_reset hhost fun rom he => hreset rom rest (he ▸ hhost)

/-- A run of a parked machine without a Reset: the states that differ from the first in what the host's turns move are all
parked, and each steps to another of them. -/
theorem Parked.safeRun (hs : Parked s) (hreset : NoResetListed s) (n : Nat) :
    SafeRun n s ∧ ∃ t, runSteps n s = .next t ∧ NoResetListed t ∧ ChangesOnly s t hostParts := by
  refine safeRun_of_invariant (I := fun t => NoResetListed t ∧ ChangesOnly s t hostParts) ?fault ?step n
    ⟨hreset, .refl s _⟩
  case fault =>
    rintro t ⟨_, hst⟩
    obtain ⟨_, hf, _⟩ := hs.of_changesOnly hst
    exact hf
  case step =>
    rintro t ⟨hlisted, hst⟩
    obtain ⟨u, hstep, htail, htu⟩ := (hs.of_changesOnly hst).step_next hlisted.schedule_ne
    exact ⟨u, hstep, hlisted.of_schedule_eq_tail htail, hst.trans_self htu⟩

/-- With no turn listed the parked state steps to itself. -/
theorem Parked.step_self (hs : Parked s) (hnil : s.schedule = []) : step s = .next s := by
  rw [hs.step_engine (.inr ⟨hnil, rfl⟩), ← hnil]

end

/-- Settles O55: the engine's jump to itself changes nothing, and what the host's turns move is not what being parked
reads, so both turns lead from parked states to parked states. -/
theorem parkedMachineStaysParked : Obligations.ParkedMachineStaysParked := by
  intro s hs
  refine ⟨fun hreset => ?step, fun rest hmoves => hs.step_engine hmoves.2, fun hreset n => ?run,
    fun hnil => runSteps_of_step_self (hs.step_self hnil)⟩
  case step =>
    obtain ⟨t, hstep, _, hframe⟩ := hs.step_next hreset
    exact ⟨t, hstep, hs.of_changesOnly hframe, hframe⟩
  case run =>
    obtain ⟨hsafe, t, hrun, _, hframe⟩ := hs.safeRun hreset n
    exact ⟨hsafe, t, hrun, hs.of_changesOnly hframe, hframe⟩

/-! ### No run before a ROM is loaded (R272, R274, U20) -/

section
variable {s t : State}

theorem step_of_engineTurn_not_launched (hn : s.launched = false) {rest : List Turn} (hturn : EngineTurn s rest) :
    step s = .refused .notLaunched := by
  rw [step_of_engineTurn hturn, engineStep_of_not_launched (s := { s with schedule := rest }) hn]

/-- No turn of the host but a Reset launches the engine. -/
theorem not_launched_of_changesOnly (hn : s.launched = false) (h : ChangesOnly s t hostParts) : t.launched = false :=
  Eq.trans (h .launched (by decide)) hn

/-- Before the first Reset a step that answers a next state is an event of the host. -/
theorem step_next_of_not_launched (hn : s.launched = false)
    (hreset : ∀ rom rest, s.schedule ≠ .host (.reset rom) :: rest) (h : step s = .next t) :
    t.schedule = s.schedule.tail ∧ ChangesOnly s t hostParts := by
  obtain ⟨rest, hturn⟩ | ⟨e, rest, hhost⟩ := engineTurn_or_host s
  · nomatch (step_of_engineTurn_not_launched hn hturn).symm.trans h
  · obtain ⟨u, hstep, hsched, hframe⟩ := step_host_of_ne_reset hhost fun rom he => hreset rom rest (he ▸ hhost)
    cases hstep.symm.trans h
    rw [hhost]
    exact ⟨hsched, hframe⟩

/-- A run that meets no Reset is made of such events alone. -/
theorem runSteps_changesOnly_of_not_launched (hn : s.launched = false) (hreset : NoResetListed s) {n : Nat}
    (h : runSteps n s = .next t) : ChangesOnly s t hostParts := by
  refine (runSteps_keeps (I := fun t => NoResetListed t ∧ ChangesOnly s t hostParts) ?step ⟨hreset, .refl s _⟩ h).2
  case step =>
    rintro u v ⟨hlisted, hsu⟩ hstep
    obtain ⟨htail, huv⟩ := step_next_of_not_launched (not_launched_of_changesOnly hn hsu) hlisted.schedule_ne hstep
    exact ⟨hlisted.of_schedule_eq_tail htail, hsu.trans_self huv⟩

end

/-- Settles O56: the engine's turn is refused while the flag is off, and the host's other turns leave the flag alone; a
Reset sets it, with pc and memory as the ROM's load has them. -/
theorem noRunBeforeARomIsLoaded : Obligations.NoRunBeforeARomIsLoaded := by
  refine ⟨step_of_engineTurn_not_launched rfl (.inr ⟨rfl, rfl⟩), fun s hn =>
    ⟨fun rest => step_of_engineTurn_not_launched hn, fun e rest hhost he => ?host, fun n t hreset hrun => ?run,
      fun rom rest hhost => ?reset⟩⟩
  case host =>
    obtain ⟨t, hstep, _, hframe⟩ := step_host_of_ne_reset hhost he
    exact ⟨t, hstep, not_launched_of_changesOnly hn hframe, hframe⟩
  case run =>
    have hframe := runSteps_changesOnly_of_not_launched hn hreset hrun
    exact ⟨not_launched_of_changesOnly hn hframe, hframe⟩
  case reset => exact ⟨_, step_of_host hhost, rfl, rfl, rfl, rfl, rfl, rfl⟩

end Sys2Proof.Machine
